-- ==== Sys2Proof/Word.lean ====
section
/-!
DEFINITION. The word types of the block and the shape of a byte memory.

The block has 8-bit fields and 16-bit addresses and column values (10_state.md R21 to R35, 30_encoding.md R71).
-/
namespace Sys2Proof

/-- An 8-bit value: opcodes, operands, pixel bytes, tile fields (R71, R76). -/
abbrev Byte := BitVec 8

/-- A 16-bit value: SEQ_PC, base addresses, column registers (R21, R9, R33). -/
abbrev Half := BitVec 16

/-- A byte memory: (address, byte) pairs, addresses strictly rising, none equal to what an unlisted address reads as
(`memWf` in Machine/Ops.lean says so). -/
abbrev Mem := List Host.Cell

end Sys2Proof
end

