-- ==== Sys2Proof/Config.lean ====
section
/-!
DEFINITION. The configuration record of 00_scope.md R9, its constants, the values it has in `State.reset`, and the one
free value of the model.

R28 calls the record "a set of read-only control registers": it stands in State (field `cfg`), no instruction writes it,
and every statement ranges over it.
-/
namespace Sys2Proof

/-- UPDATE_MODE (R9, R28): 0 = FULL, 1 = PARTIAL. -/
inductive UpdateMode where
  | full
  | partialUpdate
  deriving DecidableEq, Repr

/-- The bit that encodes UPDATE_MODE (R28). -/
def UpdateMode.bit : UpdateMode → Bool
  | .full => false
  | .partialUpdate => true

/-- The transport timing fields of the DisplayDescriptor (R8): opaque numbers that no rule reads. -/
structure Transport where
  csPolarity   : Nat
  busClock     : Nat
  tSetupNs     : Nat
  tHoldNs      : Nat
  tPulseNs     : Nat
  resetPulseMs : Nat
  resetWaitMs  : Nat
  deriving DecidableEq, Repr

/-- The parameters of R9. -/
structure Config where
  /-- PIX_W, panel pixel width. -/
  pixW : Half
  /-- PIX_H; no rule reads it. -/
  pixH : Half
  /-- TILE_W; no rule reads it. -/
  tileW : Byte
  /-- TILE_H, the source's tile_rows_total. -/
  tileH : Byte
  /-- X_OFFSET, column origin offset in pixels. -/
  xOffset : Byte
  /-- The transport timing fields; no rule reads them. -/
  transport : Transport
  /-- UPDATE_MODE. -/
  updateMode : UpdateMode
  /-- WAVE_FULL. -/
  waveFull : List Byte
  /-- WAVE_PARTIAL. -/
  wavePartial : List Byte
  /-- WAVE_LEN, 1..255. -/
  waveLen : Nat
  /-- SEQ_MEM, the sequence ROM image. -/
  seqMem : Mem
  /-- SEQ_MEM_SIZE, 1..65536. -/
  seqMemSize : Nat
  /-- BASE_INIT_FULL. -/
  baseInitFull : Half
  /-- BASE_INIT_PARTIAL. -/
  baseInitPartial : Half
  /-- BASE_ACTIVE. -/
  baseActive : Half
  /-- BASE_SLEEP. -/
  baseSleep : Half
  /-- BASE_REFRESH_FULL. -/
  baseRefreshFull : Half
  /-- BASE_REFRESH_PARTIAL. -/
  baseRefreshPartial : Half
  /-- OP_COL_WINDOW. -/
  opColWindow : Byte
  /-- OP_ROW_WINDOW. -/
  opRowWindow : Byte
  /-- OP_COL_CURSOR. -/
  opColCursor : Byte
  /-- OP_ROW_CURSOR. -/
  opRowCursor : Byte
  /-- OP_RAM_WRITE. -/
  opRamWrite : Byte
  /-- SETTLE_MS_PARTIAL. -/
  settleMsPartial : Nat
  /-- SETTLE_MS_FULL. -/
  settleMsFull : Nat
  /-- PA_WIDTH, width of a pixel-memory address. -/
  paWidth : Nat
  deriving DecidableEq, Repr

/-- MAX_DELAY_MS (R9, D7): the largest wait one DLY encodes. -/
def Config.maxDelayMs : Nat := 255

/-- TICK (R9, D7): the period of the delay counter's time base, in ms. -/
def Config.tickMs : Nat := 1

/-- The configuration in `State.reset`. DESIGN CHOICE (notes/assumptions/1.md), unsafe: R9 leaves these parameters OPEN.
The defaults and the examples R9 gives are taken (UPDATE_MODE PARTIAL, PA_WIDTH 32, PIX_W 200, TILE_H 25, X_OFFSET 0,
SETTLE_MS_PARTIAL 1300), the ROM image lists nothing and fills the whole address space, and the rest is the least legal
value. No program is in it. -/
def Config.atReset : Config where
  pixW := 200
  pixH := 0
  tileW := 0
  tileH := 25
  xOffset := 0
  transport := ⟨0, 0, 0, 0, 0, 0, 0⟩
  updateMode := .partialUpdate
  waveFull := [0]
  wavePartial := [0]
  waveLen := 1
  seqMem := []
  seqMemSize := 65536
  baseInitFull := 0
  baseInitPartial := 0
  baseActive := 0
  baseSleep := 0
  baseRefreshFull := 0
  baseRefreshPartial := 0
  opColWindow := 0
  opRowWindow := 0
  opColCursor := 0
  opRowCursor := 0
  opRamWrite := 0
  settleMsPartial := 1300
  settleMsFull := 0
  paWidth := 32

/-- FREE VALUE (notes/assumptions/10.md). What SEQ_PC holds after an instruction that ends at address 0xFFFF: R21 says
that it "never wraps" and gives no 16-bit value for it. No body, so nothing can be proved about it; the argument is the
counter `freeCnt` of State. -/
opaque Config.freeSeqPc : Nat → Half

end Sys2Proof
end

