-- ==== Sys2Proof/Syntax.lean ====
section
/-!
DEFINITION. The instructions of spec/opcode_table.json, one constructor a row: the byte code of the sequence ROM
(30_encoding.md R70, R71, R74) and the host messages (R76).
-/
namespace Sys2Proof

/-- The tile of a message (R76): `(x, y, cnt, ptr)`. `ptr` is a pixel-memory address of PA_WIDTH bits, a parameter, so it
is a Nat here and the port takes its low PA_WIDTH bits (`State.accept`). -/
structure Tile where
  x   : Byte
  y   : Byte
  cnt : Byte
  ptr : Nat
  deriving DecidableEq, Repr

/-- A message on the host port (R76): `(tag, arg, tile)`. -/
structure Message where
  tag  : Byte
  arg  : Byte
  tile : Tile
  deriving DecidableEq, Repr

/-- The opcode table. -/
inductive Instr where
  /-- START, R101. -/
  | start
  /-- ENDX, R102. -/
  | endx
  /-- CMD op, R103. -/
  | cmd (op : Byte)
  /-- CMDA op, a1..an, R104; n is the length of `args`. -/
  | cmda (op : Byte) (args : List Byte)
  /-- DLY d, R105. -/
  | dly (d : Byte)
  /-- END, R107. -/
  | endSeq
  /-- (reserved): an opcode byte that R74 reserves. -/
  | reserved (opcode : Byte)
  /-- SETUP, tag 9, R210. -/
  | setup (arg : Byte) (tile : Tile)
  /-- INIT, tag 10, R212. -/
  | init (arg : Byte) (tile : Tile)
  /-- POWERSAVE, tag 11, R214, R215. -/
  | powersave (arg : Byte) (tile : Tile)
  /-- FLIP, tag 13, R217. -/
  | flip (arg : Byte) (tile : Tile)
  /-- DRAW, tag 15, R220, R221. -/
  | draw (arg : Byte) (tile : Tile)
  /-- REFRESH, tag 16, R230. -/
  | refresh (arg : Byte) (tile : Tile)
  /-- unknown_tag: a message with any other tag, R240. -/
  | unknownTag (tag arg : Byte) (tile : Tile)
  deriving DecidableEq, Repr

end Sys2Proof
end

