-- ==== Sys2Proof/WellFormed.lean ====
section
/-!
DEFINITION. Which terms of `Instr` are instructions of the spec: the operand ranges of 30_encoding.md R71, R74, R75, R76.
-/
namespace Sys2Proof

/-- An opcode byte with a meaning of its own (R74). -/
def definedOpcode (b : Byte) : Bool :=
  b == 0x01 || b == 0x02 || b == 0x03 || b == 0x04 || b == 0xFE || b == 0xFF

/-- A message tag with a handler of its own (R76, R201). -/
def recognisedTag (t : Byte) : Bool :=
  t == 9 || t == 10 || t == 11 || t == 13 || t == 15 || t == 16

/-- CMDA has 1 to 255 argument bytes (R75); a reserved opcode is not a defined one (R74); an unknown tag is not a
recognised one (R76). Every other operand value is legal (R75, R77). -/
def Instr.wf : Instr → Bool
  | .start => true
  | .endx => true
  | .cmd _ => true
  | .cmda _ args => decide (1 ≤ args.length ∧ args.length ≤ 255)
  | .dly _ => true
  | .endSeq => true
  | .reserved b => !definedOpcode b
  | .setup _ _ => true
  | .init _ _ => true
  | .powersave _ _ => true
  | .flip _ _ => true
  | .draw _ _ => true
  | .refresh _ _ => true
  | .unknownTag t _ _ => !recognisedTag t

end Sys2Proof
end

