-- ==== Sys2Proof/Decode.lean ====
section
/-!
DEFINITION. Decoding and encoding (30_encoding.md): the byte code of the sequence ROM (R71 to R75), the message tuple
(R76), the assembler's pseudo-instructions (R79, R80), and the reading of a word numbered as the opcode table numbers it.
-/
namespace Sys2Proof

/-- How many operand bytes follow an opcode byte (R72): a fixed number, or 2+n with n in byte 2. -/
inductive OperandForm where
  | fixed (k : Nat)
  | counted
  deriving DecidableEq, Repr

/-- R72: "The opcode byte decides the length". A reserved byte has none. -/
def operandForm (b : Byte) : OperandForm :=
  if b = 0x03 then .fixed 1
  else if b = 0xFE then .fixed 1
  else if b = 0x04 then .counted
  else .fixed 0

/-- Why bytes are not an instruction. Every one of them means that the bytes end inside the instruction, or go on
after it: R74 gives every opcode byte a row. -/
inductive DecodeError where
  /-- no byte at all -/
  | noOpcodeByte
  /-- the operand bytes end early -/
  | missingOperand
  /-- fewer argument bytes than the count says -/
  | missingArgs
  /-- bytes left over after the one instruction -/
  | trailingBytes
  deriving DecidableEq, Repr

/-- The instruction at the head of a byte list, with the rest of the list (R71, R74). `CMDA` with n = 0 is read as
`cmda op []`, which is not well-formed and whose meaning raises EMPTY_ARGS (R75, R104; notes/assumptions/16.md). -/
def decodeSeq : List Byte → Except DecodeError (Instr × List Byte)
  | [] => .error .noOpcodeByte
  | b :: rest =>
    if b = 0x01 then .ok (.start, rest)
    else if b = 0x02 then .ok (.endx, rest)
    else if b = 0x03 then
      match rest with
      | op :: r => .ok (.cmd op, r)
      | [] => .error .missingOperand
    else if b = 0x04 then
      match rest with
      | op :: n :: r =>
        if n.toNat ≤ r.length then .ok (.cmda op (r.take n.toNat), r.drop n.toNat) else .error .missingArgs
      | _ => .error .missingOperand
    else if b = 0xFE then
      match rest with
      | d :: r => .ok (.dly d, r)
      | [] => .error .missingOperand
    else if b = 0xFF then .ok (.endSeq, rest)
    else .ok (.reserved b, rest)

/-- The instruction a message stands for (R76, R201). -/
def decodeMsg (m : Message) : Instr :=
  if m.tag = 9 then .setup m.arg m.tile
  else if m.tag = 10 then .init m.arg m.tile
  else if m.tag = 11 then .powersave m.arg m.tile
  else if m.tag = 13 then .flip m.arg m.tile
  else if m.tag = 15 then .draw m.arg m.tile
  else if m.tag = 16 then .refresh m.arg m.tile
  else .unknownTag m.tag m.arg m.tile

/-- The two places an instruction comes from: bytes of the sequence ROM (R71), or the host port (R76). -/
inductive Code where
  | rom (bytes : List Byte)
  | port (m : Message)
  deriving DecidableEq, Repr

/-- Decode one whole instruction, with no byte left over. -/
def decode : Code → Except DecodeError Instr
  | .rom bs =>
    match decodeSeq bs with
    | .ok (i, []) => .ok i
    | .ok (_, _ :: _) => .error .trailingBytes
    | .error e => .error e
  | .port m => .ok (decodeMsg m)

/-- The encoding of an instruction (R71, R76). -/
def encode : Instr → Code
  | .start => .rom [0x01]
  | .endx => .rom [0x02]
  | .cmd op => .rom [0x03, op]
  | .cmda op args => .rom (0x04 :: op :: BitVec.ofNat 8 args.length :: args)
  | .dly d => .rom [0xFE, d]
  | .endSeq => .rom [0xFF]
  | .reserved b => .rom [b]
  | .setup arg tile => .port ⟨9, arg, tile⟩
  | .init arg tile => .port ⟨10, arg, tile⟩
  | .powersave arg tile => .port ⟨11, arg, tile⟩
  | .flip arg tile => .port ⟨13, arg, tile⟩
  | .draw arg tile => .port ⟨15, arg, tile⟩
  | .refresh arg tile => .port ⟨16, arg, tile⟩
  | .unknownTag tag arg tile => .port ⟨tag, arg, tile⟩

/-- The ROM bytes of an instruction; a message has none. -/
def romBytes (i : Instr) : List Byte :=
  match encode i with
  | .rom bs => bs
  | .port _ => []

/-- Whether an instruction stands in the sequence ROM (R70), and not on the host port. -/
def Instr.inRom (i : Instr) : Bool :=
  match encode i with
  | .rom _ => true
  | .port _ => false

/-- The length of a ROM instruction in bytes (R71, R72). -/
def Instr.len (i : Instr) : Nat := (romBytes i).length

/-- The ROM bytes of an instruction list, one instruction after the other (R78). -/
def assemble : List Instr → List Byte
  | [] => []
  | i :: is => romBytes i ++ assemble is

/-- `q` copies of `DLY 255`. -/
def fullDelays : Nat → List Instr
  | 0 => []
  | q + 1 => .dly 255 :: fullDelays q

/-- The pseudo-instruction `WAIT w` (R79): q copies of `DLY 255`, then `DLY r` if r > 0. -/
def expandWait (w : Nat) : List Instr :=
  fullDelays (w / 255) ++ (if w % 255 = 0 then [] else [.dly (BitVec.ofNat 8 (w % 255))])

/-- The pseudo-instruction `SEQUENCE { body }` (R80): START, body, ENDX, END. -/
def expandSequence (body : List Instr) : List Instr :=
  .start :: (body ++ [.endx, .endSeq])

/-! ### Words numbered as the opcode table numbers them -/

/-- The first `k` bytes of a word, the least significant one first. -/
def wordBytes : Nat → Nat → List Byte
  | 0, _ => []
  | k + 1, w => BitVec.ofNat 8 w :: wordBytes k (w / 256)

/-- The longest instruction (R104): 3 + 255 bytes. -/
def maxInstrLen : Nat := 258

/-- A word read as a message: MSG_TAG in bits 7..0 as the table has it, then arg, x, y and cnt in the next four bytes and
ptr above them. DESIGN CHOICE (notes/assumptions/15.md): the table gives the operands no bits. -/
def messageOfWord (w : Nat) : Message where
  tag := BitVec.ofNat 8 w
  arg := BitVec.ofNat 8 (w / 256)
  tile := { x := BitVec.ofNat 8 (w / 256 ^ 2)
            y := BitVec.ofNat 8 (w / 256 ^ 3)
            cnt := BitVec.ofNat 8 (w / 256 ^ 4)
            ptr := w / 256 ^ 5 }

/-- Where a table word belongs. The table holds two name spaces, opcode bytes and message tags, and gives a row no bit
that tells them apart: a word whose low byte is a recognised tag (no opcode byte is one) is a message, every other word
is ROM bytes. DESIGN CHOICE (notes/assumptions/15.md). -/
def tableCode (nbits w : Nat) : Code :=
  let v := w % 2 ^ nbits
  if recognisedTag (BitVec.ofNat 8 v) then .port (messageOfWord v) else .rom (wordBytes maxInstrLen v)

/-- The instruction the decoder reads from a word of the opcode table. -/
def decodeTableWord (nbits w : Nat) : Option Instr :=
  match tableCode nbits w with
  | .port m => some (decodeMsg m)
  | .rom bs =>
    match decodeSeq bs with
    | .ok (i, _) => some i
    | .error _ => none

end Sys2Proof
end

