-- ==== Sys2Proof/Machine/State.lean ====
section
/-!
DEFINITION. The state of the block (10_state.md), its stops, and its state after reset (R38, R280).
-/
namespace Sys2Proof.Machine

/-- A bus event (41_bus_serializer.md R140) carries one block of exactly eight bytes in `SendData`; this is such a block,
and also SCRATCH[0..7] (R35) and a pixel slice (R180). -/
structure Block where
  b0 : Byte
  b1 : Byte
  b2 : Byte
  b3 : Byte
  b4 : Byte
  b5 : Byte
  b6 : Byte
  b7 : Byte
  deriving DecidableEq, Repr

/-- The bus events (R140). -/
inductive BusEvent where
  | startTransfer
  | endTransfer
  | sendCommand (op : Byte)
  | sendArgs (bytes : List Byte)
  | sendData (block : Block)
  | delay (ms : Byte)
  deriving DecidableEq, Repr

/-- How the bus answers an event that the block presents (R141, D32): it accepts it after holding it for some more steps,
or it never accepts it (notes/assumptions/7.md). -/
inductive BusReply where
  | after (steps : Nat)
  | never
  deriving DecidableEq, Repr

/-- PSTATE (R27). Its encoding is `PState.bits`. -/
inductive PState where
  | uninit
  | active
  | psLight
  | deepSleep
  deriving DecidableEq, Repr

/-- PHASE (R29). -/
inductive Phase where
  | idle
  | seq
  | wait
  | drawWin
  | drawData
  | drawEnd
  | faulted
  deriving DecidableEq, Repr

/-- FAULT_CAUSE (R250). Its code is `FaultCause.code`; the codes 9 to 15 are never recorded. -/
inductive FaultCause where
  | none
  | reservedOpcode
  | fetchRange
  | emptyArgs
  | nestedStart
  | secondTransfer
  | unbalancedEndx
  | outsideTransfer
  | unbalancedEnd
  deriving DecidableEq, Repr

/-- One command of the window burst that the block "generates ... in registers" (R163): a CMDA, or a CMD where `args` is
empty. -/
structure WindowCommand where
  op   : Byte
  args : List Byte
  deriving DecidableEq, Repr

/-- Why the machine has no next state. -/
inductive Fault where
  /-- Raised by `step` in PHASE FAULTED while RST is not asserted: "In FAULTED the block has no step" (R251).
  Safe: it is a stop where the block stops (notes/assumptions/8.md). -/
  | noStepInFaulted
  /-- Raised by the DrawTile data phase on a PIX read that R53 does not admit: the block "is stuck, neither a fault nor a
  completion". Safe: it is a stop where the block stops (notes/assumptions/9.md). -/
  | pixReadNotAdmitted
  /-- Raised by every operation that presents an event, on a bus that never accepts it: "leaves the block stuck (no step)
  inside the current message" (R141). Safe: it is a stop where the block stops (notes/assumptions/7.md). -/
  | busNeverAccepts
  deriving DecidableEq, Repr

/-- Why an instruction has no meaning. -/
inductive Refusal where
  /-- Raised by `exec` for an instruction that has no meaning yet. No arm raises it now. Safe. -/
  | notModelled (mnemonic : String)
  deriving DecidableEq, Repr

/-- The state. The registers of 10_state.md under their own names, the configuration, the host's side of the ports, the
bus trace, and four fields of the model's own. -/
structure State where
  /-- PSTATE, R27. -/
  pstate : PState
  /-- PHASE, R29. -/
  phase : Phase
  /-- SEQ_PC, R21. -/
  seqPc : Half
  /-- SEQ_Q, R30. -/
  seqQ : List Half
  /-- PEND_PS, R30; `none` is KEEP. -/
  pendPs : Option PState
  /-- DLY_CNT, R31. -/
  dlyCnt : Byte
  /-- XFER_OPEN, R23. -/
  xferOpen : Bool
  /-- XFER_SEEN, R24. -/
  xferSeen : Bool
  /-- RESULT, R25. -/
  result : Bool
  /-- DONE, R203. -/
  done : Bool
  /-- READY, R200. -/
  ready : Bool
  /-- FAULT, R26. -/
  fault : Bool
  /-- FAULT_CAUSE, R26. -/
  faultCause : FaultCause
  /-- FAULT_PC, R26. -/
  faultPc : Half
  /-- RAM_VALID, the ghost flag of R36. -/
  ramValid : Bool
  /-- M_TAG, R32. -/
  mTag : Byte
  /-- M_ARG, R32. -/
  mArg : Byte
  /-- T_X, R32. -/
  tX : Byte
  /-- T_Y, R32. -/
  tY : Byte
  /-- T_CNT, R32. -/
  tCnt : Byte
  /-- T_PTR, R32: PA_WIDTH bits, so below 2^PA_WIDTH (notes/assumptions/14.md). -/
  tPtr : Nat
  /-- ROW, R33. -/
  row : Byte
  /-- COL, R33. -/
  col : Half
  /-- COL_END, R33. -/
  colEnd : Half
  /-- BLK_IDX, R34. -/
  blkIdx : Byte
  /-- SCRATCH[0..7], R35. -/
  scratch : Block
  /-- The window burst's commands still to run (R163; notes/assumptions/11.md). -/
  burst : List WindowCommand
  /-- The bus has accepted the SendCommand of the CMDA, or window command, under way, and its SendArgs is presented next
  (R104, R141; notes/assumptions/11.md). -/
  cmdSent : Bool
  /-- The block BLK_IDX has been converted into SCRATCH, and the SendData of SCRATCH is presented next (R35, R181;
  notes/assumptions/12.md). -/
  blockDue : Bool
  /-- The configuration record of R9, read-only (R28). It holds SEQ, the sequence ROM (R50). -/
  cfg : Config
  /-- PIX, the host's pixel memory (R50, R53). No step changes it: a host that writes it between messages is given as
  another state (DESIGN CHOICE, notes/assumptions/22.md). -/
  pix : Mem
  /-- The host's messages in call order; the first one is on the port, with MSG_VALID = 1 while there is one
  (R200; notes/assumptions/4.md). -/
  msgs : List Message
  /-- The bus's answers to the events still to be presented, in their order; past the end of the list it accepts at once
  (R141; notes/assumptions/7.md). -/
  bus : List BusReply
  /-- RST (R280), with the configuration applied at that reset (R282); `none` while RST is not asserted. When RST comes is
  the environment's: no step asserts it, so a reset in mid-run is given as another state, with RST asserted (DESIGN CHOICE,
  notes/assumptions/5.md). -/
  rst : Option Config
  /-- The bus trace since the last reset: the events the bus has accepted, oldest first (R12, R140). -/
  trace : List BusEvent
  /-- The model's own: the traces that earlier resets ended, oldest first (notes/assumptions/13.md). -/
  oldTraces : List (List BusEvent)
  /-- The model's own: SEQ_PC has been advanced past address 0xFFFF (notes/assumptions/10.md). -/
  pcPastTop : Bool
  /-- The model's own: how many free values have been drawn (notes/assumptions/10.md). -/
  freeCnt : Nat
  /-- The model's own ghost: tick boundaries spent in WAIT so far, each 1 ms (R106; notes/assumptions/6.md). -/
  waitedMs : Nat
  deriving DecidableEq, Repr

/-- The outcome of a meaning or a step. -/
abbrev Out := Host.Outcome State Fault Refusal

/-- The state right after reset (R38, R280). The registers R38 leaves unspecified (M_TAG to SCRATCH) hold zero: DESIGN
CHOICE, unsafe (notes/assumptions/2.md). The configuration is `Config.atReset` (notes/assumptions/1.md). -/
def State.reset : State where
  pstate := .uninit
  phase := .idle
  seqPc := 0
  seqQ := []
  pendPs := none
  dlyCnt := 0
  xferOpen := false
  xferSeen := false
  result := false
  done := false
  ready := true
  fault := false
  faultCause := .none
  faultPc := 0
  ramValid := false
  mTag := 0
  mArg := 0
  tX := 0
  tY := 0
  tCnt := 0
  tPtr := 0
  row := 0
  col := 0
  colEnd := 0
  blkIdx := 0
  scratch := ⟨0, 0, 0, 0, 0, 0, 0, 0⟩
  burst := []
  cmdSent := false
  blockDue := false
  cfg := Config.atReset
  pix := []
  msgs := []
  bus := []
  rst := none
  trace := []
  oldTraces := []
  pcPastTop := false
  freeCnt := 0
  waitedMs := 0

end Sys2Proof.Machine
end

