-- ==== Sys2Proof/Machine/Operands.lean ====
section
/-!
DEFINITION. Operands: byte order of the one multi-byte quantity (20_memory.md R54), the value a message operand is latched
with (R76, R200), what the configuration selects (R212, R230, R233), the encodings the host reads (R27, R250), and the
eight bytes of a block in order (R140).
-/
namespace Sys2Proof

/-- `lo8(v) = v[7:0]` (00_scope.md R11). -/
def lo8 (v : Half) : Byte := v.extractLsb' 0 8

/-- `hi8(v) = v[15:8]` (R11). -/
def hi8 (v : Half) : Byte := v.extractLsb' 8 8

/-- BASE_INIT (R212): the init image UPDATE_MODE selects. -/
def Config.baseInit (c : Config) : Half :=
  match c.updateMode with
  | .full => c.baseInitFull
  | .partialUpdate => c.baseInitPartial

/-- BASE_REF (R230): the refresh sequence UPDATE_MODE selects. -/
def Config.baseRefresh (c : Config) : Half :=
  match c.updateMode with
  | .full => c.baseRefreshFull
  | .partialUpdate => c.baseRefreshPartial

/-- WAVE[UPDATE_MODE] (R10, R212). -/
def Config.wave (c : Config) : List Byte :=
  match c.updateMode with
  | .full => c.waveFull
  | .partialUpdate => c.wavePartial

/-- SETTLE_MS[UPDATE_MODE] (R233). -/
def Config.settleMs (c : Config) : Nat :=
  match c.updateMode with
  | .full => c.settleMsFull
  | .partialUpdate => c.settleMsPartial

/-- The tile pointer as the port carries it: `TILE_PTR[PA_WIDTH-1:0]` (R200; notes/assumptions/14.md). -/
def Config.portPtr (c : Config) (ptr : Nat) : Nat := ptr % 2 ^ c.paWidth

end Sys2Proof

namespace Sys2Proof.Machine

/-- The eight bytes of a block in the order they are sent (R147, R181). -/
def Block.bytes (b : Block) : List Byte := [b.b0, b.b1, b.b2, b.b3, b.b4, b.b5, b.b6, b.b7]

/-- The 2-bit encoding of PSTATE (R27). -/
def PState.bits : PState → BitVec 2
  | .uninit => 0b00
  | .active => 0b01
  | .psLight => 0b10
  | .deepSleep => 0b11

/-- The 4-bit code of FAULT_CAUSE (R250). -/
def FaultCause.code : FaultCause → BitVec 4
  | .none => 0
  | .reservedOpcode => 1
  | .fetchRange => 2
  | .emptyArgs => 3
  | .nestedStart => 4
  | .secondTransfer => 5
  | .unbalancedEndx => 6
  | .outsideTransfer => 7
  | .unbalancedEnd => 8

/-- The outputs of the host port (R200). -/
structure HostOutputs where
  ready      : Bool
  done       : Bool
  result     : Bool
  pstate     : BitVec 2
  fault      : Bool
  faultCause : BitVec 4
  faultPc    : Half
  deriving DecidableEq, Repr

/-- What the host reads at the port (R200, R27, R250). -/
def State.outputs (s : State) : HostOutputs where
  ready := s.ready
  done := s.done
  result := s.result
  pstate := s.pstate.bits
  fault := s.fault
  faultCause := s.faultCause.code
  faultPc := s.faultPc

end Sys2Proof.Machine
end

