-- ==== Sys2Proof/Machine/Flags.lean ====
section
/-!
DEFINITION. The bracket flags XFER_OPEN and XFER_SEEN (10_state.md R23, R24): who sets them, who clears them, and the
checks the interpreter makes on them (40_sequence_interpreter.md R101 to R107).
-/
namespace Sys2Proof.Machine

/-- Set by an emitted StartTransfer (R23, R101, R221). -/
def State.openXfer (s : State) : State := { s with xferOpen := true }

/-- Cleared by the EndTransfer of DrawTile (R23, R221). -/
def State.closeXfer (s : State) : State := { s with xferOpen := false }

/-- XFER_SEEN is 1 once the stored sequence has emitted its EndTransfer (R24, R102). -/
def State.markSeen (s : State) : State := { s with xferSeen := true }

/-- START's checks, in R101's order (R254). -/
def startCheck (s : State) : Option FaultCause :=
  if s.xferOpen then some .nestedStart
  else if s.xferSeen then some .secondTransfer
  else none

/-- ENDX's check (R102). -/
def endxCheck (s : State) : Option FaultCause :=
  if s.xferOpen then none else some .unbalancedEndx

/-- The check of CMD, CMDA and DLY (R103 to R105). -/
def insideCheck (s : State) : Option FaultCause :=
  if s.xferOpen then none else some .outsideTransfer

/-- CMDA's checks: EMPTY_ARGS comes before the bracket check (R108, R254). -/
def cmdaCheck (args : List Byte) (s : State) : Option FaultCause :=
  if args = [] then some .emptyArgs else insideCheck s

/-- END's checks; both share one code (R107, R254). -/
def endCheck (s : State) : Option FaultCause :=
  if s.xferOpen then some .unbalancedEnd
  else if s.xferSeen then none
  else some .unbalancedEnd

end Sys2Proof.Machine
end

