-- ==== Sys2Proof/Machine/Ops.lean ====
section
/-!
DEFINITION. The named operations the meanings are written over: byte memories, the reads of SEQ and PIX (20_memory.md),
events and their handshake (R12, R140, R141), SEQ_PC (R21), taking a ConfigFault (60_exceptions.md R251) and its one way out, reset (R253, R280),
running a stored sequence (R109, R205), accepting a message (R200) and finishing it (R203).
-/
namespace Sys2Proof.Machine

/-! ### Byte memories -/

/-- What an address that a memory does not list reads as. DESIGN CHOICE (notes/assumptions/3.md), unsafe: R9 leaves the
ROM image OPEN and R53 leaves the pixels to the host; 0x00 is R74's "erased or zero-filled ROM region". -/
def memFill : Byte := 0

/-- The byte at an address. -/
def memRead : Mem → Nat → Byte
  | [], _ => memFill
  | (b, v) :: m, a => if b = a then v else memRead m a

/-- `n` bytes from an address, in increasing address order (R51, R53, R54). -/
def memBytes (m : Mem) (a : Nat) : Nat → List Byte
  | 0 => []
  | n + 1 => memRead m a :: memBytes m (a + 1) n

/-- Write one byte, keeping the canonical form. The block has no store (R57): this is how a ROM image or the host's
pixels are laid out. -/
def memWrite : Mem → Nat → Byte → Mem
  | [], a, v => if v = memFill then [] else [(a, v)]
  | (b, u) :: m, a, v =>
    if a < b then (if v = memFill then (b, u) :: m else (a, v) :: (b, u) :: m)
    else if a = b then (if v = memFill then m else (a, v) :: m)
    else (b, u) :: memWrite m a v

/-- Write bytes at consecutive addresses. -/
def memWriteBytes (m : Mem) (a : Nat) : List Byte → Mem
  | [] => m
  | v :: vs => memWriteBytes (memWrite m a v) (a + 1) vs

/-- The canonical form above a bound: addresses strictly rising from `lo` on, no entry equal to the fill. -/
def memWfFrom (lo : Nat) : Mem → Bool
  | [] => true
  | (a, v) :: m => decide (lo ≤ a) && decide (v ≠ memFill) && memWfFrom (a + 1) m

/-- The canonical form of a memory. -/
def memWf (m : Mem) : Bool := memWfFrom 0 m

/-- `MemRead_SEQ(addr, n)` (R51): `none` where the read "does not happen" and its instruction raises FETCH_RANGE. -/
def memReadSeq (c : Config) (addr n : Nat) : Option (List Byte) :=
  if addr + n > c.seqMemSize then none else some (memBytes c.seqMem addr n)

/-- Whether R53 admits `MemRead_PIX(addr, n)`: inside `T_PTR .. T_PTR + 8*T_CNT - 1`, below `2^PA_WIDTH`. -/
def pixAdmits (s : State) (addr n : Nat) : Bool :=
  decide (s.tPtr ≤ addr) && decide (addr + n ≤ s.tPtr + 8 * s.tCnt.toNat) && decide (addr + n ≤ 2 ^ s.cfg.paWidth)

/-- The eight bytes of pixel memory from an address on (R56). -/
def pixBlock (m : Mem) (addr : Nat) : Block where
  b0 := memRead m addr
  b1 := memRead m (addr + 1)
  b2 := memRead m (addr + 2)
  b3 := memRead m (addr + 3)
  b4 := memRead m (addr + 4)
  b5 := memRead m (addr + 5)
  b6 := memRead m (addr + 6)
  b7 := memRead m (addr + 7)

/-- `MemRead_PIX(addr, 8)` (R53): `none` where the read is not admitted and the block is stuck. -/
def memReadPix (s : State) (addr : Nat) : Option Block :=
  if pixAdmits s addr 8 then some (pixBlock s.pix addr) else none

/-! ### Bus events -/

/-- The bus has accepted an event: it is appended to the bus trace (R12, R141). -/
def State.emit (e : BusEvent) (s : State) : State := { s with trace := s.trace ++ [e], bus := s.bus.tail }

/-- `emit E` (R12) as the handshake of R141: the event is presented, and "held until the bus accepts it", when the block
goes on as `go` says. While the bus holds it nothing changes but the bus's own answer; a bus that never accepts leaves the
block stuck (notes/assumptions/7.md). -/
def present (e : BusEvent) (s : State) (go : State → State) : Out :=
  match s.bus with
  | [] => .next (go (s.emit e))
  | .after 0 :: _ => .next (go (s.emit e))
  | .after (k + 1) :: bus => .next { s with bus := .after k :: bus }
  | .never :: _ => .fault .busNeverAccepts

/-- The SendCommand of a command with arguments has been accepted. -/
def State.commandSent (s : State) : State := { s with cmdSent := true }

/-- So has its SendArgs. -/
def State.argsSent (s : State) : State := { s with cmdSent := false }

/-- The bus call of a command with arguments that is due: SendCommand, then SendArgs (R104). -/
def commandEvent (op : Byte) (args : List Byte) (s : State) : BusEvent :=
  if s.cmdSent then .sendArgs args else .sendCommand op

/-- The two bus calls of CMDA, one a step: after the SendCommand the command is still under way, after the SendArgs the
block goes on (R104, R141; notes/assumptions/11.md). -/
def presentCommandArgs (op : Byte) (args : List Byte) (s : State) (go : State → State) : Out :=
  present (commandEvent op args s) s (fun t => if s.cmdSent then go t.argsSent else t.commandSent)

/-! ### The sequence pointer -/

/-- `SEQ_PC <- SEQ_PC + n` (R21). Past 0xFFFF the sum is no 16-bit value: SEQ_PC "never wraps", the next fetch raises
FETCH_RANGE (`pcPastTop`), and what the register holds is a free value (notes/assumptions/10.md). -/
def State.advance (n : Nat) (s : State) : State :=
  if s.pcPastTop = false ∧ s.seqPc.toNat + n < 65536 then
    { s with seqPc := s.seqPc + BitVec.ofNat 16 n }
  else
    { s with seqPc := Config.freeSeqPc s.freeCnt, pcPastTop := true, freeCnt := s.freeCnt + 1 }

/-! ### Taking a ConfigFault -/

/-- `raise ConfigFault(cause, pc)` (R251): "nothing else changes". There is no handler and no return (R253). -/
def State.raiseConfigFault (cause : FaultCause) (pc : Half) (s : State) : State :=
  { s with fault := true, faultCause := cause, faultPc := pc, phase := .faulted }

/-- A meaning behind its checks: the first failing check's cause is recorded with the instruction's own address and the
instruction has no effect (R108, R251, R254); otherwise the meaning runs. -/
def checked (check : Option FaultCause) (s : State) (run : Out) : Out :=
  match check with
  | some cause => .next (s.raiseConfigFault cause s.seqPc)
  | none => run

/-- RST with configuration `c` (R280, R282, R283): every register to its reset value, no event, the running message
abandoned, the event on the bus with it. The host's messages and pixels and the bus's coming answers stay, and the trace so
far is kept as ended (notes/assumptions/5.md, 13.md). -/
def State.applyRst (c : Config) (s : State) : State :=
  { State.reset with
    cfg := c
    pix := s.pix
    msgs := s.msgs
    bus := s.bus
    oldTraces := s.oldTraces ++ [s.trace]
    freeCnt := s.freeCnt
    waitedMs := s.waitedMs }

/-! ### Stored sequences and messages -/

/-- `RunSeq(base)` (R109). -/
def State.runSeq (base : Half) (s : State) : State :=
  { s with seqPc := base, pcPastTop := false, xferSeen := false, phase := .seq }

/-- RAM_VALID after a message that ends with result `r` (R203, R36). -/
def State.finishRamValid (r : Bool) (s : State) : Bool :=
  if r = true ∧ s.mTag = 10 then true
  else if r = true ∧ s.mTag = 11 ∧ s.mArg ≠ 0 then false
  else s.ramValid

/-- PSTATE after a message that ends with result `r` (R203). -/
def State.finishPState (r : Bool) (s : State) : PState :=
  match r, s.pendPs with
  | true, some p => p
  | _, _ => s.pstate

/-- `finish(r)` (R203). -/
def State.finish (r : Bool) (s : State) : State :=
  { s with
    result := r
    pstate := s.finishPState r
    ramValid := s.finishRamValid r
    pendPs := none
    seqQ := []
    phase := .idle
    done := true
    ready := true }

/-- `SeqDone` (R205). -/
def State.seqDone (s : State) : State :=
  match s.seqQ with
  | b :: q => State.runSeq b { s with seqQ := q }
  | [] => s.finish true

/-- A message is accepted where PHASE = IDLE and READY = 1 (R200). -/
def State.canAccept (s : State) : Bool := decide (s.phase = .idle) && s.ready

/-- The latching of an accepted message (R200). -/
def State.accept (tag arg : Byte) (tile : Tile) (s : State) : State :=
  { s with
    mTag := tag
    mArg := arg
    tX := tile.x
    tY := tile.y
    tCnt := tile.cnt
    tPtr := s.cfg.portPtr tile.ptr
    ready := false
    done := false
    seqQ := []
    pendPs := none }

/-- A message instruction: accepted and handled where the port accepts, else it waits and nothing changes
(R200, D31; notes/assumptions/17.md). -/
def onAccept (tag arg : Byte) (tile : Tile) (handler : State → State) (s : State) : Out :=
  if s.canAccept then .next (handler (s.accept tag arg tile)) else .next s

end Sys2Proof.Machine
end

