-- ==== Sys2Proof/Machine/Converter.lean ====
section
/-!
DEFINITION. The pixel-polarity converter and the DrawTile data phase (43_tile_converter.md, 44_operations.md R221).
-/
namespace Sys2Proof.Machine

/-- `convert(in)[j] = ~in[j]` (R180). -/
def convert (b : Block) : Block where
  b0 := ~~~b.b0
  b1 := ~~~b.b1
  b2 := ~~~b.b2
  b3 := ~~~b.b3
  b4 := ~~~b.b4
  b5 := ~~~b.b5
  b6 := ~~~b.b6
  b7 := ~~~b.b7

/-- `SCRATCH[j] <- ~in[j]` for the eight bytes read: the conversion overwrites SCRATCH before the block is sent, and its
SendData is due (R181, R35). -/
def State.convertBlock (input : Block) (s : State) : State := { s with scratch := convert input, blockDue := true }

/-- The SendData of SCRATCH has been accepted: BLK_IDX moves on (R221). -/
def State.blockSent (s : State) : State := { s with blkIdx := s.blkIdx + 1, blockDue := false }

/-- A step in DRAW_DATA: the conversion of the block BLK_IDX into SCRATCH, then the SendData of SCRATCH, or the end of the
loop (R181, R221; notes/assumptions/12.md). A read that R53 does not admit leaves the block stuck. -/
def stepDrawData (s : State) : Out :=
  if s.blockDue then present (.sendData s.scratch) s State.blockSent
  else if s.blkIdx.toNat < s.tCnt.toNat then
    match memReadPix s (s.tPtr + 8 * s.blkIdx.toNat) with
    | some input => .next (s.convertBlock input)
    | none => .fault .pixReadNotAdmitted
  else .next { s with phase := .drawEnd }

/-- A step in DRAW_END: EndTransfer, XFER_OPEN cleared, finish(1) (R221). -/
def stepDrawEnd (s : State) : Out :=
  present .endTransfer s (fun t => t.closeXfer.finish true)

end Sys2Proof.Machine
end

