-- ==== Sys2Proof/Machine/Window.lean ====
section
/-!
DEFINITION. The window address calculator and its burst (42_window_address.md).
-/
namespace Sys2Proof.Machine

/-- ROW (R160): an exact subtraction, then reduced to 8 bits. -/
def windowRow (c : Config) (y : Byte) : Byte :=
  BitVec.ofInt 8 ((c.tileH.toNat : Int) - 1 - (y.toNat : Int))

/-- COL (R161). -/
def windowCol (c : Config) (x : Byte) : Half :=
  BitVec.ofNat 16 (x.toNat * 8 + c.xOffset.toNat)

/-- COL_END (R162). -/
def windowColEnd (c : Config) : Half :=
  BitVec.ofInt 16 ((c.pixW.toNat : Int) - 1)

/-- ROW, COL and COL_END computed from the latched tile position (R160 to R162, R164: no range check). -/
def State.computeWindow (s : State) : State :=
  { s with row := windowRow s.cfg s.tY, col := windowCol s.cfg s.tX, colEnd := windowColEnd s.cfg }

/-- The fragment of the window burst (R163), from the window registers. -/
def windowBurst (s : State) : List WindowCommand :=
  [ ⟨s.cfg.opColWindow, [lo8 s.col, hi8 s.col, lo8 s.colEnd, hi8 s.colEnd]⟩
  , ⟨s.cfg.opRowWindow, [s.row, s.row]⟩
  , ⟨s.cfg.opColCursor, [lo8 s.col, hi8 s.col]⟩
  , ⟨s.cfg.opRowCursor, [s.row]⟩
  , ⟨s.cfg.opRamWrite, []⟩ ]

/-- DrawTile's StartTransfer has been accepted: XFER_OPEN, the window registers, the burst's fragment (R221, R163). -/
def State.openWindow (s : State) : State :=
  let t := s.openXfer.computeWindow
  { t with burst := windowBurst t }

/-- The event that is due of one command of the burst: that of CMD or of CMDA (R163). -/
def windowEvent (w : WindowCommand) (s : State) : BusEvent :=
  match w.args with
  | [] => .sendCommand w.op
  | _ :: _ => commandEvent w.op w.args s

/-- One command of the burst, with the events of CMD or CMDA. SEQ_PC is not touched: "Nothing is fetched from SEQ"
(R163; notes/assumptions/11.md). -/
def runWindowCommand (w : WindowCommand) (s : State) (go : State → State) : Out :=
  match w.args with
  | [] => present (.sendCommand w.op) s go
  | _ :: _ => presentCommandArgs w.op w.args s go

/-- The data phase begins: PHASE DRAW_DATA, BLK_IDX 0 (R221). -/
def State.beginData (s : State) : State := { s with phase := .drawData, blkIdx := 0 }

/-- A command of the burst is done and `ws` are left; after the last one the data phase begins (R163, R221). -/
def State.burstGoesOn (ws : List WindowCommand) (s : State) : State :=
  match ws with
  | [] => State.beginData { s with burst := [] }
  | _ :: _ => { s with burst := ws }

/-- A step in DRAW_WIN: StartTransfer, then one event of the burst (R221, R163). -/
def stepDrawWin (s : State) : Out :=
  if s.xferOpen then
    match s.burst with
    | [] => .next s.beginData
    | w :: ws => runWindowCommand w s (State.burstGoesOn ws)
  else present .startTransfer s State.openWindow

end Sys2Proof.Machine
end

