-- ==== Sys2Proof/Machine/Messages.lean ====
section
/-!
DEFINITION. The meanings of the host messages (44_operations.md R200 to R240).
-/
namespace Sys2Proof.Machine

/-- SETUP (R210). -/
def execSetup (arg : Byte) (tile : Tile) (s : State) : Out :=
  onAccept 9 arg tile (State.finish true) s

/-- Init's handler (R212): the init image, then the enter-active sequence, then finish(1). -/
def State.beginInit (s : State) : State :=
  State.runSeq s.cfg.baseInit { s with seqQ := [s.cfg.baseActive], pendPs := some .active }

/-- INIT (R212). -/
def execInit (arg : Byte) (tile : Tile) (s : State) : Out :=
  onAccept 10 arg tile State.beginInit s

/-- SetPowerSave's handler (R214, R215), on the latched M_ARG. -/
def State.beginPowersave (s : State) : State :=
  if s.mArg = 0 then State.runSeq s.cfg.baseActive { s with pendPs := some .active }
  else State.runSeq s.cfg.baseSleep { s with pendPs := some .deepSleep }

/-- POWERSAVE (R214, R215). -/
def execPowersave (arg : Byte) (tile : Tile) (s : State) : Out :=
  onAccept 11 arg tile State.beginPowersave s

/-- FLIP (R217). -/
def execFlip (arg : Byte) (tile : Tile) (s : State) : Out :=
  onAccept 13 arg tile (State.finish true) s

/-- The beginning of DrawTileBody (R221): PHASE DRAW_WIN. `stepDrawWin`, which presents the StartTransfer, `stepDrawData`
and `stepDrawEnd` go on from there (notes/assumptions/12.md). -/
def State.beginDraw (s : State) : State := { s with phase := .drawWin }

/-- DrawTile's state check (R220). -/
def State.drawTile (s : State) : State :=
  if s.pstate = .deepSleep ∨ s.pstate = .uninit then s.finish false else s.beginDraw

/-- DRAW (R220, R221). -/
def execDraw (arg : Byte) (tile : Tile) (s : State) : Out :=
  onAccept 15 arg tile State.drawTile s

/-- Refresh's handler (R230). -/
def State.beginRefresh (s : State) : State :=
  State.runSeq s.cfg.baseRefresh { s with pendPs := none }

/-- REFRESH (R230). -/
def execRefresh (arg : Byte) (tile : Tile) (s : State) : Out :=
  onAccept 16 arg tile State.beginRefresh s

/-- A message with any other tag (R240). -/
def execUnknownTag (tag arg : Byte) (tile : Tile) (s : State) : Out :=
  onAccept tag arg tile (State.finish false) s

end Sys2Proof.Machine
end

