-- ==== Sys2Proof/Machine/Sequence.lean ====
section
/-!
DEFINITION. The meanings of the interpreter's instructions (40_sequence_interpreter.md R101 to R107, 30_encoding.md R74)
and the delay counter (R106).
-/
namespace Sys2Proof.Machine

/-- START (R101). -/
def execStart (s : State) : Out :=
  checked (startCheck s) s (present .startTransfer s fun t => t.openXfer.advance 1)

/-- ENDX (R102). -/
def execEndx (s : State) : Out :=
  checked (endxCheck s) s (present .endTransfer s fun t => t.closeXfer.markSeen.advance 1)

/-- CMD op (R103). -/
def execCmd (op : Byte) (s : State) : Out :=
  checked (insideCheck s) s (present (.sendCommand op) s fun t => t.advance 2)

/-- CMDA op, a1..an (R104): two bus calls, one each time it is executed; SEQ_PC moves on with the second. -/
def execCmda (op : Byte) (args : List Byte) (s : State) : Out :=
  checked (cmdaCheck args s) s (presentCommandArgs op args s fun t => t.advance (3 + args.length))

/-- DLY_CNT loaded; a duration above 0 stalls in WAIT (R105). -/
def State.loadDelay (d : Byte) (s : State) : State :=
  { s with dlyCnt := d, phase := if d = 0 then s.phase else .wait }

/-- DLY d (R105). -/
def execDly (d : Byte) (s : State) : Out :=
  checked (insideCheck s) s (present (.delay d) s fun t => (t.advance 2).loadDelay d)

/-- END (R107): no bus event, SEQ_PC unchanged, then SeqDone (R205). -/
def execEnd (s : State) : Out :=
  checked (endCheck s) s (.next s.seqDone)

/-- A reserved opcode (R74). -/
def execReserved (_opcode : Byte) (s : State) : Out :=
  checked (some .reservedOpcode) s (.next s)

/-- A step in WAIT is one TICK boundary (R106; notes/assumptions/6.md): DLY_CNT counts down by 1, and at 0 the
interpreter goes on. -/
def stepWait (s : State) : Out :=
  if s.dlyCnt.toNat ≤ 1 then .next { s with dlyCnt := 0, phase := .seq, waitedMs := s.waitedMs + s.dlyCnt.toNat }
  else .next { s with dlyCnt := s.dlyCnt - 1, waitedMs := s.waitedMs + 1 }

end Sys2Proof.Machine
end

