-- ==== Sys2Proof/Machine/Dispatch.lean ====
section
/-! DEFINITION. The dispatch of an instruction to its meaning, one arm a constructor. -/
namespace Sys2Proof.Machine

def exec (i : Instr) (s : State) : Host.Outcome State Fault Refusal :=
  match i with
  -- the sequence ROM (R101 to R107, R74)
  | .start => Sys2Proof.Machine.execStart s
  | .endx => Sys2Proof.Machine.execEndx s
  | .cmd op => Sys2Proof.Machine.execCmd op s
  | .cmda op args => Sys2Proof.Machine.execCmda op args s
  | .dly d => Sys2Proof.Machine.execDly d s
  | .endSeq => Sys2Proof.Machine.execEnd s
  | .reserved opcode => Sys2Proof.Machine.execReserved opcode s
  -- the host port (R201)
  | .setup arg tile => Sys2Proof.Machine.execSetup arg tile s
  | .init arg tile => Sys2Proof.Machine.execInit arg tile s
  | .powersave arg tile => Sys2Proof.Machine.execPowersave arg tile s
  | .flip arg tile => Sys2Proof.Machine.execFlip arg tile s
  | .draw arg tile => Sys2Proof.Machine.execDraw arg tile s
  | .refresh arg tile => Sys2Proof.Machine.execRefresh arg tile s
  | .unknownTag tag arg tile => Sys2Proof.Machine.execUnknownTag tag arg tile s

end Sys2Proof.Machine
end

