-- ==== Sys2Proof/Machine/Phases.lean ====
section
/-!
DEFINITION. What the step does in each phase that runs instructions: the fetch of Step_SEQ (40_sequence_interpreter.md
R108) and the acceptance of a message in IDLE (44_operations.md R200); and the placing of an instruction for the next
step.
-/
namespace Sys2Proof.Machine

/-- The fetch address: SEQ_PC, or one past 0xFFFF where SEQ_PC has run past it (R21). -/
def State.fetchAddr (s : State) : Nat := if s.pcPastTop then 65536 else s.seqPc.toNat

/-- The bytes of the instruction at an address, read as R108 reads them: the opcode byte, then the operand bytes, for
CMDA the argument bytes after the count. `none` where one of them lies outside the ROM (R51). -/
def fetchBytes (c : Config) (pc : Nat) : Option (List Byte) :=
  match memReadSeq c pc 1 with
  | some [b0] =>
    match operandForm b0 with
    | .fixed k => memReadSeq c pc (1 + k)
    | .counted =>
      match memReadSeq c (pc + 1) 2 with
      | some [_, n] => memReadSeq c pc (3 + n.toNat)
      | _ => none
  | _ => none

/-- The instruction at an address of the ROM (R108). -/
def fetchInstr (c : Config) (pc : Nat) : Option Instr :=
  match fetchBytes c pc with
  | some bs =>
    match decodeSeq bs with
    | .ok (i, _) => some i
    | .error _ => none
  | none => none

/-- A step in SEQ (R108): fetch, decode, execute; a byte outside the ROM raises FETCH_RANGE with the instruction's
SEQ_PC (R51, R250). No fault is taken to be one "not tied to a ROM address", for which R26 has FAULT_PC 0xFFFF: a fetch past
0xFFFF records SEQ_PC too, which is then a free value (DESIGN CHOICE, notes/assumptions/10.md). -/
def stepSeq (s : State) : Out :=
  match fetchInstr s.cfg s.fetchAddr with
  | some i => exec i s
  | none => .next (s.raiseConfigFault .fetchRange s.seqPc)

/-- A step in IDLE (R200, R263): the message on the port is accepted and taken from it; with none, or with READY = 0,
nothing changes (notes/assumptions/18.md). -/
def stepIdle (s : State) : Out :=
  match s.msgs with
  | [] => .next s
  | m :: rest => if s.canAccept then exec (decodeMsg m) { s with msgs := rest } else .next s

/-- The event an instruction presents where its checks pass, if it presents one (R101 to R107, R144). -/
def instrEvent (i : Instr) (s : State) : Option BusEvent :=
  match i with
  | .start => if startCheck s = none then some .startTransfer else none
  | .endx => if endxCheck s = none then some .endTransfer else none
  | .cmd op => if insideCheck s = none then some (.sendCommand op) else none
  | .cmda op args => if cmdaCheck args s = none then some (commandEvent op args s) else none
  | .dly d => if insideCheck s = none then some (.delay d) else none
  | .endSeq | .reserved _ => none
  | .setup _ _ | .init _ _ | .powersave _ _ | .flip _ _ | .draw _ _ | .refresh _ _ | .unknownTag _ _ _ => none

/-- The event on the bus port (R141): what the block presents, and holds until the bus accepts it. `none` where it
presents none. -/
def State.presented (s : State) : Option BusEvent :=
  match s.phase with
  | .seq =>
    match fetchInstr s.cfg s.fetchAddr with
    | some i => instrEvent i s
    | none => none
  | .drawWin =>
    if s.xferOpen then
      match s.burst with
      | w :: _ => some (windowEvent w s)
      | [] => none
    else some .startTransfer
  | .drawData => if s.blockDue then some (.sendData s.scratch) else none
  | .drawEnd => some .endTransfer
  | .idle | .wait | .faulted => none

/-- Where ROM bytes are placed for the next fetch: at SEQ_PC, or at 0 where the longest instruction would not fit below
65536 (notes/assumptions/15.md). -/
def State.loadAddr (s : State) : Half :=
  if s.pcPastTop = false ∧ s.seqPc.toNat + maxInstrLen ≤ 65536 then s.seqPc else 0

/-- The machine with ROM bytes where the next step fetches, in SEQ, with no instruction under way and a bus that takes its
event at once. -/
def State.withRomBytes (bs : List Byte) (s : State) : State :=
  { s with
    rst := none
    phase := .seq
    seqPc := s.loadAddr
    pcPastTop := false
    cmdSent := false
    bus := []
    cfg := { s.cfg with
      seqMem := memWriteBytes s.cfg.seqMem s.loadAddr.toNat bs
      seqMemSize := max s.cfg.seqMemSize (s.loadAddr.toNat + bs.length) } }

/-- The machine with a message on its port, ready to accept it. -/
def State.withPortMessage (m : Message) (s : State) : State :=
  { s with rst := none, phase := .idle, ready := true, msgs := m :: s.msgs }

/-- The machine with an instruction's code where the next step takes it from. -/
def State.withCode (c : Code) (s : State) : State :=
  match c with
  | .rom bs => s.withRomBytes bs
  | .port m => s.withPortMessage m

end Sys2Proof.Machine
end

