-- ==== Sys2Proof/Machine/Step.lean ====
section
/-!
DEFINITION. One step of the machine: RST wins over everything (60_exceptions.md R255, 70_reset_and_hazards.md R283);
otherwise the phase decides (10_state.md R29).
-/
namespace Sys2Proof.Machine

/-- One step. In FAULTED "the block has no step" (R251). -/
def step (s : State) : Host.Outcome State Fault Refusal :=
  match s.rst with
  | some c => .next (s.applyRst c)
  | none =>
    match s.phase with
    | .idle => stepIdle s
    | .seq => stepSeq s
    | .wait => stepWait s
    | .drawWin => stepDrawWin s
    | .drawData => stepDrawData s
    | .drawEnd => stepDrawEnd s
    | .faulted => .fault .noStepInFaulted

/-- The machine with the instruction of a table word where the next step takes it from (notes/assumptions/15.md): ROM
bytes at SEQ_PC with PHASE SEQ, or a message on the port with PHASE IDLE and READY 1. -/
def State.withFetchWord (s : State) (nbits w : Nat) : State := s.withCode (tableCode nbits w)

end Sys2Proof.Machine
end

