-- ==== Sys2Proof/Machine/Premises.lean ====
section
/-!
DEFINITION. The configuration premises of 00_scope.md R10, from the stored sequences of 30_encoding.md R81, R82. No step
reads them: a statement takes them as a hypothesis.
-/
namespace Sys2Proof.Machine

/-- The list of instructions read from an address up to the first END, which is included (R81). `none` where a byte lies
outside the ROM, an opcode is reserved, or a CMDA has n = 0. Every instruction takes a byte of the ROM, so SEQ_MEM_SIZE is
fuel enough. -/
def decodeFrom (c : Config) : Nat → Nat → Option (List Instr)
  | 0, _ => none
  | fuel + 1, addr =>
    match fetchInstr c addr with
    | some .endSeq => some [.endSeq]
    | some (.reserved _) => none
    | some (.cmda _ []) => none
    | some i => (decodeFrom c fuel (addr + i.len)).map (i :: ·)
    | none => none

/-- `decode(base)` (R81). -/
def decodeSequence (c : Config) (base : Half) : Option (List Instr) :=
  decodeFrom c c.seqMemSize base.toNat

/-- An instruction of a sequence's body: CMD, CMDA or DLY (R82). -/
def isBody : Instr → Bool
  | .cmd _ => true
  | .cmda _ _ => true
  | .dly _ => true
  | _ => false

/-- `B1 · ... · Bm · ENDX · END` (R82). -/
def bodyShape : List Instr → Bool
  | [.endx, .endSeq] => true
  | i :: is => isBody i && bodyShape is
  | [] => false

/-- `START · B1 · ... · Bm · ENDX · END` (R82). -/
def sequenceShape : List Instr → Bool
  | .start :: is => bodyShape is
  | _ => false

/-- `WF(base)` (R82). -/
def wfSequence (c : Config) (base : Half) : Bool :=
  match decodeSequence c base with
  | some is => sequenceShape is
  | none => false

/-- The milliseconds one instruction delays (R105). -/
def delayOf : Instr → Nat
  | .dly d => d.toNat
  | _ => 0

/-- The sum of the Delay durations of an instruction list (R79, R233). -/
def delaySum : List Instr → Nat
  | [] => 0
  | i :: is => delayOf i + delaySum is

/-- The sum of the Delay durations of a stored sequence (R233). The 0 of a sequence that does not decode means nothing
(DESIGN CHOICE, notes/assumptions/23.md). -/
def sequenceDelay (c : Config) (base : Half) : Nat :=
  match decodeSequence c base with
  | some is => delaySum is
  | none => 0

/-- Whether a list of instructions streams a table as the argument bytes of one CMDA (R212). -/
def streams (table : List Byte) (is : List Instr) : Bool :=
  is.any fun i =>
    match i with
    | .cmda _ args => args == table
    | _ => false

/-- Whether a stored sequence streams a table (R10, R212). -/
def sequenceStreams (c : Config) (base : Half) (table : List Byte) : Bool :=
  match decodeSequence c base with
  | some is => streams table is
  | none => false

/-- The value ranges R9 gives its parameters; a field whose type already bounds it needs no clause. -/
def configInRange (c : Config) : Bool :=
  decide (1 ≤ c.pixW.toNat) && decide (1 ≤ c.tileH.toNat)
    && decide (1 ≤ c.waveLen) && decide (c.waveLen ≤ 255)
    && decide (c.waveFull.length = c.waveLen) && decide (c.wavePartial.length = c.waveLen)
    && decide (1 ≤ c.seqMemSize) && decide (c.seqMemSize ≤ 65536)

/-- The six stored sequences are WF (R10, R82). -/
def allSequencesWf (c : Config) : Bool :=
  wfSequence c c.baseInitFull && wfSequence c c.baseInitPartial && wfSequence c c.baseActive
    && wfSequence c c.baseSleep && wfSequence c c.baseRefreshFull && wfSequence c c.baseRefreshPartial

/-- The premises of R10. -/
def configPremises (c : Config) : Bool :=
  configInRange c && allSequencesWf c
    && decide (sequenceDelay c c.baseRefresh = c.settleMs)
    && sequenceStreams c c.baseInit c.wave

end Sys2Proof.Machine
end

