-- ==== Sys2Proof/Machine/MessageLevel.lean ====
section
/-!
DEFINITION. The message level of 00_scope.md R13: what one message does as a whole (44_operations.md R204), given by the
traces of its stored sequences (40_sequence_interpreter.md R110) or of DrawTile (R221). The step does not use it; a
statement says that the two levels agree.
-/
namespace Sys2Proof.Machine

/-- `events(B)` (R110). START, ENDX and END add nothing here: `sequenceTrace` writes the bracket. -/
def bodyEvents : Instr → List BusEvent
  | .cmd op => [.sendCommand op]
  | .cmda op args => [.sendCommand op, .sendArgs args]
  | .dly d => [.delay d]
  | _ => []

/-- The events of a list of body instructions (R110). -/
def listEvents : List Instr → List BusEvent
  | [] => []
  | i :: is => bodyEvents i ++ listEvents is

/-- `trace(base)` (R110). DESIGN CHOICE (notes/assumptions/23.md): R110 gives it for a WF base address alone, and the empty
list for a sequence that does not decode means nothing. -/
def sequenceTrace (c : Config) (base : Half) : List BusEvent :=
  match decodeSequence c base with
  | some is => .startTransfer :: (listEvents is ++ [.endTransfer])
  | none => []

/-- The events of one command of the window burst: those of CMD, or of CMDA (R163). -/
def WindowCommand.events (w : WindowCommand) : List BusEvent :=
  match w.args with
  | [] => [.sendCommand w.op]
  | _ :: _ => [.sendCommand w.op, .sendArgs w.args]

/-- The nine events of the window burst (R163) for a tile position. -/
def windowEvents (c : Config) (x y : Byte) : List BusEvent :=
  let row := windowRow c y
  let col := windowCol c x
  let colEnd := windowColEnd c
  [ .sendCommand c.opColWindow, .sendArgs [lo8 col, hi8 col, lo8 colEnd, hi8 colEnd]
  , .sendCommand c.opRowWindow, .sendArgs [row, row]
  , .sendCommand c.opColCursor, .sendArgs [lo8 col, hi8 col]
  , .sendCommand c.opRowCursor, .sendArgs [row]
  , .sendCommand c.opRamWrite ]

/-- The data bursts of `n` blocks from an address on (R181, R221). -/
def dataEvents (pix : Mem) (addr : Nat) : Nat → List BusEvent
  | 0 => []
  | n + 1 => .sendData (convert (pixBlock pix addr)) :: dataEvents pix (addr + 8) n

/-- DrawTile's trace in an admitted state (R221). -/
def drawTrace (c : Config) (pix : Mem) (tile : Tile) : List BusEvent :=
  .startTransfer :: (windowEvents c tile.x tile.y
    ++ dataEvents pix (c.portPtr tile.ptr) tile.cnt.toNat ++ [.endTransfer])

/-- Whether R53 admits every PIX read of a tile. -/
def tileFits (c : Config) (tile : Tile) : Bool :=
  decide (c.portPtr tile.ptr + 8 * tile.cnt.toNat ≤ 2 ^ c.paWidth)

/-- What a message leaves behind (R204), with the least time its delays take (R110). -/
structure OpResult where
  pstate   : PState
  ramValid : Bool
  result   : Bool
  trace    : List BusEvent
  delayMs  : Nat
  deriving DecidableEq, Repr

/-- `op(state, msg)` (R204): R210, R212, R214, R215, R217, R220, R221, R230, R240. R204 gives it under its premises alone: a
configuration that meets R10, and a bus and host that complete every handshake. DESIGN CHOICE (notes/assumptions/23.md):
outside them the function is total but its values mean nothing: a sequence that is not WF, and a DRAW whose buffer R53
refuses, never end at the step level. -/
def op (c : Config) (pix : Mem) (p : PState) (ramValid : Bool) (m : Message) : OpResult :=
  match decodeMsg m with
  | .setup _ _ => ⟨p, ramValid, true, [], 0⟩
  | .init _ _ =>
    ⟨.active, true, true, sequenceTrace c c.baseInit ++ sequenceTrace c c.baseActive,
      sequenceDelay c c.baseInit + sequenceDelay c c.baseActive⟩
  | .powersave arg _ =>
    if arg = 0 then ⟨.active, ramValid, true, sequenceTrace c c.baseActive, sequenceDelay c c.baseActive⟩
    else ⟨.deepSleep, false, true, sequenceTrace c c.baseSleep, sequenceDelay c c.baseSleep⟩
  | .flip _ _ => ⟨p, ramValid, true, [], 0⟩
  | .draw _ tile =>
    if p = .deepSleep ∨ p = .uninit then ⟨p, ramValid, false, [], 0⟩
    else ⟨p, ramValid, true, drawTrace c pix tile, 0⟩
  | .refresh _ _ => ⟨p, ramValid, true, sequenceTrace c c.baseRefresh, sequenceDelay c c.baseRefresh⟩
  | .unknownTag _ _ _ => ⟨p, ramValid, false, [], 0⟩
  -- no message decodes to an instruction of the ROM
  | .start | .endx | .cmd _ | .cmda _ _ | .dly _ | .endSeq | .reserved _ => ⟨p, ramValid, false, [], 0⟩

end Sys2Proof.Machine
end

