-- ==== Sys2Proof/Safety.lean ====
section
/-!
DEFINITION. Runs of the machine and the terms statements are made in: the invariant of the block's state, the bracket
discipline of a trace (41_bus_serializer.md R145), and what it is for a message to be under way.
-/
namespace Sys2Proof.Machine

/-- `n` steps lead from one state to another. No step asserts RST, so no step of a run but its first one is a reset: a reset
in mid-run is a run up to it, and another from that state with RST asserted (DESIGN CHOICE, notes/assumptions/5.md). -/
inductive Steps : Nat → State → State → Prop where
  | refl (s : State) : Steps 0 s s
  | cons {n : Nat} {s u t : State} (h : step s = .next u) (rest : Steps n u t) : Steps (n + 1) s t

/-- Some number of steps leads from one state to another. -/
def Reaches (s t : State) : Prop := ∃ n, Steps n s t

/-! ### The shapes of a next state, written out from the rules -/

/-- `t` is `u` with SEQ_PC moved on by `n` bytes (R21). Where the sum is no 16-bit value, what SEQ_PC holds is left open:
it is a free value (notes/assumptions/10.md). -/
def SeqPcMoved (n : Nat) (u t : State) : Prop :=
  (u.pcPastTop = false ∧ u.seqPc.toNat + n < 65536 ∧ t = { u with seqPc := u.seqPc + BitVec.ofNat 16 n }) ∨
  (¬(u.pcPastTop = false ∧ u.seqPc.toNat + n < 65536) ∧
    ∃ v : Half, t = { u with seqPc := v, pcPastTop := true, freeCnt := u.freeCnt + 1 })

/-- `s` after the bus has accepted an event (R141). -/
def eventTaken (e : BusEvent) (s : State) : State := { s with trace := s.trace ++ [e], bus := s.bus.tail }

/-- The bus accepts the next event in the step that presents it. -/
def State.busTakes (s : State) : Bool :=
  match s.bus with
  | [] => true
  | .after 0 :: _ => true
  | .after (_ + 1) :: _ => false
  | .never :: _ => false

/-- The bus accepts every event in finite time: its duty of R293. -/
def State.busAnswers (s : State) : Bool := s.bus.all fun r => decide (r ≠ .never)

/-- `s` after a ConfigFault of the instruction at SEQ_PC (R251). -/
def configFaulted (cause : FaultCause) (s : State) : State :=
  { s with fault := true, faultCause := cause, faultPc := s.seqPc, phase := .faulted }

/-- `s` after the latching of an accepted message (R200). -/
def latched (tag arg : Byte) (tile : Tile) (s : State) : State :=
  { s with
    mTag := tag
    mArg := arg
    tX := tile.x
    tY := tile.y
    tCnt := tile.cnt
    tPtr := tile.ptr % 2 ^ s.cfg.paWidth
    ready := false
    done := false
    seqQ := []
    pendPs := none }

/-- `s` at the start of the stored sequence at `base` (R109). -/
def sequenceStarted (base : Half) (s : State) : State :=
  { s with seqPc := base, pcPastTop := false, xferSeen := false, phase := .seq }

/-- `s` with its message ended, with result `r`, PSTATE and RAM_VALID as they are (R203). -/
def messageEnded (r : Bool) (s : State) : State :=
  { s with result := r, pendPs := none, seqQ := [], phase := .idle, done := true, ready := true }

/-- The block is about to run the stored sequence at `base` (R109), with no reset asserted. -/
structure AtSequence (base : Half) (s : State) : Prop where
  notReset : s.rst = none
  inSeq : s.phase = .seq
  atBase : s.seqPc = base
  notPast : s.pcPastTop = false
  closed : s.xferOpen = false
  unseen : s.xferSeen = false
  noneUnderWay : s.cmdSent = false

/-- A phase of DrawTile (R29). -/
def Phase.drawing : Phase → Bool
  | .drawWin => true
  | .drawData => true
  | .drawEnd => true
  | _ => false

/-- A phase of a stored sequence (R29). -/
def Phase.sequencing : Phase → Bool
  | .seq => true
  | .wait => true
  | _ => false

/-- The invariant of the block's state. Each clause is the spec's own description of a register, but for those on what the
model holds in its own form: the three canonical forms (notes/assumptions/3.md), `ptrWidth` for T_PTR as a natural number
(14.md), and `burstWin`, `argsDue` and `dataDue` on the state between two steps of one command or one block (11.md,
12.md). -/
structure Inv (s : State) : Prop where
  /-- the ROM image is in canonical form -/
  romWf : memWf s.cfg.seqMem = true
  /-- so is a ROM image that a reset is about to apply -/
  rstWf : ∀ c, s.rst = some c → memWf c.seqMem = true
  /-- pixel memory is in canonical form -/
  pixWf : memWf s.pix = true
  /-- READY is 1 exactly in IDLE (R200, R203, R251) -/
  readyIdle : s.ready = true ↔ s.phase = .idle
  /-- DONE is 1 only between messages (R200, R203) -/
  doneIdle : s.done = true → s.phase = .idle
  /-- FAULT is 1 exactly in FAULTED (R26, R251) -/
  faultFaulted : s.fault = true ↔ s.phase = .faulted
  /-- a cause is recorded exactly with a fault (R250, R251) -/
  causeFault : s.faultCause ≠ .none ↔ s.fault = true
  /-- DLY_CNT "is 0 in every other phase" than WAIT, and WAIT ends when it is 0 (R31, R106) -/
  delayWait : s.dlyCnt ≠ 0 ↔ s.phase = .wait
  /-- a bracket is open in WAIT, in DRAW_DATA and in DRAW_END (R105, R221) -/
  openBusy : s.phase = .wait ∨ s.phase = .drawData ∨ s.phase = .drawEnd → s.xferOpen = true
  /-- no bracket is open between messages (R145) -/
  closedIdle : s.phase = .idle → s.xferOpen = false
  /-- a stored sequence has not closed the bracket it has open (R23, R24) -/
  openNotSeen : s.phase.sequencing = true → s.xferOpen = true → s.xferSeen = false
  /-- SEQ_Q holds at most two addresses (R30) -/
  queueShort : s.seqQ.length ≤ 2
  /-- no continuation outlives its message (R203) -/
  idleQueue : s.phase = .idle → s.seqQ = [] ∧ s.pendPs = none
  /-- T_PTR has PA_WIDTH bits (R32) -/
  ptrWidth : s.tPtr < 2 ^ s.cfg.paWidth
  /-- BLK_IDX runs "from 0 up to T_CNT" (R34) -/
  blkBound : s.phase = .drawData → s.blkIdx.toNat ≤ s.tCnt.toNat
  /-- commands of the window burst are left exactly in DRAW_WIN, once its bracket is open (R163, R221): the model's choice
  (notes/assumptions/11.md, 12.md) -/
  burstWin : s.burst ≠ [] ↔ s.phase = .drawWin ∧ s.xferOpen = true
  /-- a SendArgs is due only of a CMDA that stands at SEQ_PC, or of the window command under way (R104, R163): the
  model's choice (notes/assumptions/11.md) -/
  argsDue : s.cmdSent = true →
    (s.phase = .seq ∧ s.xferOpen = true ∧
      ∃ op args, args ≠ [] ∧ fetchInstr s.cfg s.fetchAddr = some (.cmda op args)) ∨
    (s.phase = .drawWin ∧ ∃ w ws, s.burst = w :: ws ∧ w.args ≠ [])
  /-- a SendData is due only in the data phase, of a block of the tile whose conversion stands in SCRATCH (R35, R181): that
  the two are two steps is the model's choice (notes/assumptions/12.md) -/
  dataDue : s.blockDue = true →
    s.phase = .drawData ∧ s.blkIdx.toNat < s.tCnt.toNat ∧
      ∃ input, memReadPix s (s.tPtr + 8 * s.blkIdx.toNat) = some input ∧ s.scratch = convert input
  /-- DrawTile runs only where its state check admits it (R220) -/
  drawAdmitted : s.phase.drawing = true → s.pstate ≠ .uninit ∧ s.pstate ≠ .deepSleep

/-- The bracket discipline (R145): `some open` says that the trace so far is made of complete brackets and, with `open`
true, of one that is still open; `none` says that it is not. -/
def bracketScan : Bool → List BusEvent → Option Bool
  | isOpen, [] => some isOpen
  | false, .startTransfer :: es => bracketScan true es
  | true, .endTransfer :: es => bracketScan false es
  | true, .sendCommand _ :: es => bracketScan true es
  | true, .sendArgs _ :: es => bracketScan true es
  | true, .sendData _ :: es => bracketScan true es
  | true, .delay _ :: es => bracketScan true es
  | _, _ :: _ => none

/-- The block between messages, with `m` on its port and no reset asserted (R200). -/
structure Offered (m : Message) (rest : List Message) (s : State) : Prop where
  notReset : s.rst = none
  idle : s.phase = .idle
  ready : s.ready = true
  closed : s.xferOpen = false
  onPort : s.msgs = m :: rest
  noneUnderWay : s.cmdSent = false
  noBlockDue : s.blockDue = false

end Sys2Proof.Machine
end

