-- ==== Sys2Proof/Certificates/Slice0/Obligations.lean ====
section
/-!
DEFINITION. The statements for the provers. `State`, `step`, `exec` are those of Sys2Proof.Machine; the shapes of next
states (`SeqPcMoved`, `eventTaken`, `configFaulted`, `latched`, `sequenceStarted`, `messageEnded`) are written out in
Safety.lean. What an instruction or a phase does with its event is stated for a bus that takes the event in that step
(`State.busTakes`); what it does on a bus that holds the event, or never accepts it, is said once, of every event, by
`BusHoldsEachEventUntilItIsAccepted`.
-/
open Sys2Proof Sys2Proof.Machine

/-! ### Reset -/

/-- R280: RST, in any state and phase, puts every register that has a reset value to it. -/
def Obligations.ResetPutsEveryRegisterToItsResetValue : Prop :=
  ∀ (s : State) (c : Config), s.rst = some c →
    ∃ t, step s = .next t ∧
      t.pstate = .uninit ∧ t.phase = .idle ∧ t.seqPc = 0 ∧ t.seqQ = [] ∧ t.pendPs = none ∧ t.dlyCnt = 0 ∧
      t.xferOpen = false ∧ t.xferSeen = false ∧ t.result = false ∧ t.done = false ∧ t.ready = true ∧
      t.fault = false ∧ t.faultCause = .none ∧ t.faultPc = 0 ∧ t.ramValid = false

/-- R281 to R283: RST emits no event, abandons the event on the bus and the command under way, applies its configuration,
and leaves the block waiting in IDLE for a message. The trace so far is kept as ended, RST lasts one step, and pixel memory,
the host's messages and the bus's coming answers stay: the model's choice (notes/assumptions/5.md, 13.md). -/
def Obligations.ResetAbandonsTheMessageAndWaits : Prop :=
  ∀ (s : State) (c : Config), s.rst = some c →
    ∃ t, step s = .next t ∧ t.cfg = c ∧ t.rst = none ∧ t.trace = [] ∧ t.oldTraces = s.oldTraces ++ [s.trace] ∧
      t.burst = [] ∧ t.cmdSent = false ∧ t.blockDue = false ∧ t.presented = none ∧
      t.pix = s.pix ∧ t.msgs = s.msgs ∧ t.bus = s.bus ∧ (t.msgs = [] → step t = .next t)

/-- R38: the values of `State.reset` that the spec gives. -/
def Obligations.ResetStateHoldsTheSpecsValues : Prop :=
  State.reset.pstate.bits = 0b00 ∧ State.reset.phase = .idle ∧ State.reset.seqPc = 0x0000 ∧ State.reset.seqQ = [] ∧
  State.reset.pendPs = none ∧ State.reset.dlyCnt = 0 ∧ State.reset.xferOpen = false ∧ State.reset.xferSeen = false ∧
  State.reset.result = false ∧ State.reset.done = false ∧ State.reset.ready = true ∧ State.reset.fault = false ∧
  State.reset.faultCause.code = 0 ∧ State.reset.faultPc = 0x0000 ∧ State.reset.ramValid = false

/-! ### The interpreter's instructions -/

/-- R101: START. What SEQ_PC holds past 0xFFFF is left open (notes/assumptions/10.md). -/
def Obligations.StartOpensTheBracketOrFaults : Prop :=
  encode .start = .rom [0x01] ∧
  ∀ s : State,
    (s.xferOpen = false → s.xferSeen = false → s.busTakes = true →
      ∃ t, exec .start s = .next t ∧ SeqPcMoved 1 { eventTaken .startTransfer s with xferOpen := true } t) ∧
    (s.xferOpen = true → exec .start s = .next (configFaulted .nestedStart s)) ∧
    (s.xferOpen = false → s.xferSeen = true → exec .start s = .next (configFaulted .secondTransfer s))

/-- R102: ENDX. What SEQ_PC holds past 0xFFFF is left open (notes/assumptions/10.md). -/
def Obligations.EndxClosesTheBracketOrFaults : Prop :=
  encode .endx = .rom [0x02] ∧
  ∀ s : State,
    (s.xferOpen = true → s.busTakes = true →
      ∃ t, exec .endx s = .next t ∧
        SeqPcMoved 1 { eventTaken .endTransfer s with xferOpen := false, xferSeen := true } t) ∧
    (s.xferOpen = false → exec .endx s = .next (configFaulted .unbalancedEndx s))

/-- R103: CMD, for every opcode. -/
def Obligations.CmdSendsTheCommandByteOrFaults : Prop :=
  ∀ (s : State) (o : Byte),
    (s.xferOpen = true → s.busTakes = true →
      ∃ t, exec (.cmd o) s = .next t ∧ SeqPcMoved 2 (eventTaken (.sendCommand o) s) t) ∧
    (s.xferOpen = false → exec (.cmd o) s = .next (configFaulted .outsideTransfer s))

/-- R104: CMDA, for every opcode and 1 to 255 argument bytes, and for n = 0. It is executed once for each of its two bus
calls, and SEQ_PC moves with the second: the model's choice (notes/assumptions/11.md). The third clause runs it as a
whole. -/
def Obligations.CmdaSendsTheCommandThenItsArgumentsOrFaults : Prop :=
  ∀ (s : State) (o : Byte) (args : List Byte),
    (s.xferOpen = true → s.cmdSent = false → 1 ≤ args.length → args.length ≤ 255 → s.busTakes = true →
      exec (.cmda o args) s = .next { eventTaken (.sendCommand o) s with cmdSent := true }) ∧
    (s.xferOpen = true → s.cmdSent = true → 1 ≤ args.length → args.length ≤ 255 → s.busTakes = true →
      ∃ t, exec (.cmda o args) s = .next t ∧
        SeqPcMoved (3 + args.length) { eventTaken (.sendArgs args) s with cmdSent := false } t) ∧
    (s.xferOpen = true → s.cmdSent = false → 1 ≤ args.length → args.length ≤ 255 →
      s.busTakes = true → (eventTaken (.sendCommand o) s).busTakes = true →
      ∃ u t, exec (.cmda o args) s = .next u ∧ exec (.cmda o args) u = .next t ∧
        SeqPcMoved (3 + args.length)
          { s with trace := s.trace ++ [.sendCommand o, .sendArgs args], bus := s.bus.drop 2 } t) ∧
    (s.xferOpen = false → 1 ≤ args.length → args.length ≤ 255 →
      exec (.cmda o args) s = .next (configFaulted .outsideTransfer s)) ∧
    (args = [] → exec (.cmda o args) s = .next (configFaulted .emptyArgs s))

/-- R105: DLY, for every duration; with 0 it does not stall. -/
def Obligations.DlyEmitsTheDelayAndLoadsTheCounterOrFaults : Prop :=
  ∀ (s : State) (d : Byte),
    (s.xferOpen = true → s.busTakes = true → d = 0 →
      ∃ t, exec (.dly d) s = .next t ∧ SeqPcMoved 2 { eventTaken (.delay d) s with dlyCnt := 0 } t) ∧
    (s.xferOpen = true → s.busTakes = true → d ≠ 0 →
      ∃ t, exec (.dly d) s = .next t ∧
        SeqPcMoved 2 { eventTaken (.delay d) s with dlyCnt := d, phase := .wait } t) ∧
    (s.xferOpen = false → exec (.dly d) s = .next (configFaulted .outsideTransfer s))

/-- R107, R205: END emits nothing and leaves SEQ_PC; it starts the next sequence of SEQ_Q, or ends the message with
success: PSTATE becomes PEND_PS unless that is KEEP. RAM_VALID after it is the subject of `FinishTracksRamValid`. -/
def Obligations.EndHandsOverOrFaults : Prop :=
  ∀ s : State,
    (s.xferOpen = true → exec .endSeq s = .next (configFaulted .unbalancedEnd s)) ∧
    (s.xferOpen = false → s.xferSeen = false → exec .endSeq s = .next (configFaulted .unbalancedEnd s)) ∧
    (∀ b q, s.xferOpen = false → s.xferSeen = true → s.seqQ = b :: q →
      exec .endSeq s = .next (sequenceStarted b { s with seqQ := q })) ∧
    (s.xferOpen = false → s.xferSeen = true → s.seqQ = [] →
      ∃ v, exec .endSeq s = .next { messageEnded true s with pstate := s.pendPs.getD s.pstate, ramValid := v })

/-- R203, R36: `finish(r)`. RAM_VALID is set by a successful Init, cleared by a successful SetPowerSave with a nonzero
argument, and otherwise kept; PSTATE is written only on success, and only where PEND_PS is not KEEP. -/
def Obligations.FinishTracksRamValid : Prop :=
  ∀ (s : State) (r : Bool),
    ∃ v, s.finish r = { messageEnded r s with pstate := if r = true then s.pendPs.getD s.pstate else s.pstate, ramValid := v } ∧
      (r = true → s.mTag = 10 → v = true) ∧
      (r = true → s.mTag = 11 → s.mArg ≠ 0 → v = false) ∧
      (r = true → s.mTag = 11 → s.mArg = 0 → v = s.ramValid) ∧
      (r = true → s.mTag ≠ 10 → s.mTag ≠ 11 → v = s.ramValid) ∧
      (r = false → v = s.ramValid)

/-- R74, R75: the opcode map. Every other opcode byte raises RESERVED_OPCODE, and CMDA with n = 0 raises EMPTY_ARGS, with
no event and SEQ_PC unmoved. Every operand of CMD and DLY is legal, and every count from 1 to 255. That the bytes 04 op 00
decode to a CMDA term, which is not well-formed, is read by inference (notes/assumptions/16.md). -/
def Obligations.OpcodeMapAndReservedEncodings : Prop :=
  (∀ r, decodeSeq (0x01 :: r) = .ok (.start, r)) ∧ (∀ r, decodeSeq (0x02 :: r) = .ok (.endx, r)) ∧
  (∀ o r, decodeSeq (0x03 :: o :: r) = .ok (.cmd o, r)) ∧
  (∀ o n args r, 1 ≤ n → n ≤ 255 → args.length = n →
    decodeSeq (0x04 :: o :: BitVec.ofNat 8 n :: (args ++ r)) = .ok (.cmda o args, r) ∧ (Instr.cmda o args).wf = true) ∧
  (∀ d r, decodeSeq (0xFE :: d :: r) = .ok (.dly d, r)) ∧ (∀ r, decodeSeq (0xFF :: r) = .ok (.endSeq, r)) ∧
  (∀ b r, b ∉ [0x01, 0x02, 0x03, 0x04, 0xFE, 0xFF] → decodeSeq (b :: r) = .ok (.reserved b, r)) ∧
  (∀ (s : State) (b : Byte), exec (.reserved b) s = .next (configFaulted .reservedOpcode s)) ∧
  (∀ o r, decodeSeq (0x04 :: o :: 0x00 :: r) = .ok (.cmda o [], r) ∧ (Instr.cmda o []).wf = false) ∧
  (∀ (s : State) (o : Byte), exec (.cmda o []) s = .next (configFaulted .emptyArgs s)) ∧
  (∀ v, (Instr.cmd v).wf = true ∧ (Instr.dly v).wf = true)

/-! ### The host messages -/

/-- R210: SETUP, at the port in every PSTATE. -/
def Obligations.SetupAcknowledges : Prop :=
  ∀ (s : State) (arg : Byte) (tile : Tile), s.phase = .idle → s.ready = true →
    exec (.setup arg tile) s = .next (messageEnded true (latched 9 arg tile s))

/-- R217: FLIP, at the port in every PSTATE. -/
def Obligations.FlipIsAnAcceptedNoOp : Prop :=
  ∀ (s : State) (arg : Byte) (tile : Tile), s.phase = .idle → s.ready = true →
    exec (.flip arg tile) s = .next (messageEnded true (latched 13 arg tile s))

/-- R240: a message with any other tag fails, with no event. -/
def Obligations.UnknownTagFails : Prop :=
  ∀ (s : State) (tag arg : Byte) (tile : Tile), recognisedTag tag = false → s.phase = .idle → s.ready = true →
    exec (.unknownTag tag arg tile) s = .next (messageEnded false (latched tag arg tile s)) ∧
    decodeMsg ⟨tag, arg, tile⟩ = .unknownTag tag arg tile

/-- R212: INIT starts the init image of UPDATE_MODE with the enter-active sequence queued and ACTIVE pending, in every
PSTATE. -/
def Obligations.InitStartsTheInitImage : Prop :=
  ∀ (s : State) (arg : Byte) (tile : Tile), s.phase = .idle → s.ready = true →
    exec (.init arg tile) s = .next (sequenceStarted
      (match s.cfg.updateMode with
        | .full => s.cfg.baseInitFull
        | .partialUpdate => s.cfg.baseInitPartial)
      { latched 10 arg tile s with seqQ := [s.cfg.baseActive], pendPs := some .active })

/-- R214, R215: POWERSAVE starts the enter-active sequence for argument 0 and the enter-deep-sleep sequence for any other,
in every PSTATE. -/
def Obligations.PowersaveStartsTheSequenceOfItsArgument : Prop :=
  ∀ (s : State) (arg : Byte) (tile : Tile), s.phase = .idle → s.ready = true →
    (arg = 0 → exec (.powersave arg tile) s = .next (sequenceStarted s.cfg.baseActive
      { latched 11 arg tile s with pendPs := some .active })) ∧
    (arg ≠ 0 → exec (.powersave arg tile) s = .next (sequenceStarted s.cfg.baseSleep
      { latched 11 arg tile s with pendPs := some .deepSleep }))

/-- R230: REFRESH starts the refresh sequence of UPDATE_MODE, in every PSTATE, with no PSTATE pending. -/
def Obligations.RefreshStartsTheRefreshSequence : Prop :=
  ∀ (s : State) (arg : Byte) (tile : Tile), s.phase = .idle → s.ready = true →
    exec (.refresh arg tile) s = .next (sequenceStarted
      (match s.cfg.updateMode with
        | .full => s.cfg.baseRefreshFull
        | .partialUpdate => s.cfg.baseRefreshPartial)
      (latched 16 arg tile s))

/-- R220: DRAW in DEEP_SLEEP or UNINIT ends at once with failure and no event; in ACTIVE and PS_LIGHT it is admitted, and
goes on in DRAW_WIN. That its StartTransfer is the next step is the model's choice (notes/assumptions/12.md). -/
def Obligations.DrawIsRefusedInDeepSleepAndUninit : Prop :=
  ∀ (s : State) (arg : Byte) (tile : Tile), s.phase = .idle → s.ready = true →
    (s.pstate = .deepSleep ∨ s.pstate = .uninit →
      exec (.draw arg tile) s = .next (messageEnded false (latched 15 arg tile s))) ∧
    (s.pstate = .active ∨ s.pstate = .psLight →
      exec (.draw arg tile) s = .next { latched 15 arg tile s with phase := .drawWin })

/-- R221, R160 to R163: the first step of DRAW_WIN opens the bracket, computes the window registers from the latched tile
and begins the burst. That StartTransfer is a step after acceptance, and that the burst's five commands are held in a
register, is the model's choice (notes/assumptions/11.md, 12.md). -/
def Obligations.DrawOpensTheBracketAndComputesTheWindow : Prop :=
  ∀ s : State, s.rst = none → s.phase = .drawWin → s.xferOpen = false → s.busTakes = true →
    ∃ (row : Byte) (col colEnd : Half),
      step s = .next { eventTaken .startTransfer s with
        xferOpen := true
        row := row
        col := col
        colEnd := colEnd
        burst :=
          [ ⟨s.cfg.opColWindow, [lo8 col, hi8 col, lo8 colEnd, hi8 colEnd]⟩, ⟨s.cfg.opRowWindow, [row, row]⟩
          , ⟨s.cfg.opColCursor, [lo8 col, hi8 col]⟩, ⟨s.cfg.opRowCursor, [row]⟩, ⟨s.cfg.opRamWrite, []⟩ ] } ∧
      (row.toNat : Int) = ((s.cfg.tileH.toNat : Int) - 1 - (s.tY.toNat : Int)) % 256 ∧
      col.toNat = s.tX.toNat * 8 + s.cfg.xOffset.toNat ∧
      (1 ≤ s.cfg.pixW.toNat → colEnd.toNat = s.cfg.pixW.toNat - 1)

/-- R200: no message is accepted while the block is busy; a message the host holds waits, and nothing changes. -/
def Obligations.MessageWaitsWhileTheBlockIsBusy : Prop :=
  ∀ (s : State) (m : Message), ¬(s.phase = .idle ∧ s.ready = true) → exec (decodeMsg m) s = .next s

/-- R200: while READY is 0, no step takes a message from the host or changes the message latch. -/
def Obligations.BusyStepsLeaveTheHostPortAlone : Prop :=
  ∀ s t : State, s.rst = none → s.ready = false → step s = .next t →
    t.msgs = s.msgs ∧ t.mTag = s.mTag ∧ t.mArg = s.mArg ∧ t.tX = s.tX ∧ t.tY = s.tY ∧ t.tCnt = s.tCnt ∧ t.tPtr = s.tPtr

/-- R77: SETUP, INIT, FLIP, REFRESH and an unknown tag ignore the argument and the tile, POWERSAVE the tile, and DRAW the
argument: with another one, the next state differs in the latch registers alone. -/
def Obligations.IgnoredOperandsReachOnlyTheLatch : Prop :=
  ∀ (s t : State) (tag arg arg' : Byte) (tile tile' : Tile), s.phase = .idle → s.ready = true →
    (tag = 11 → arg' = arg) → (tag = 15 → tile' = tile) →
    exec (decodeMsg ⟨tag, arg, tile⟩) s = .next t →
    exec (decodeMsg ⟨tag, arg', tile'⟩) s = .next { t with
      mArg := arg'
      tX := tile'.x
      tY := tile'.y
      tCnt := tile'.cnt
      tPtr := tile'.ptr % 2 ^ s.cfg.paWidth }

/-! ### The step -/

/-- R108: where the bytes at SEQ_PC are the encoding of a ROM instruction, a step in SEQ is that instruction's meaning.
Nothing is added around it: an instruction moves SEQ_PC itself (R21). -/
def Obligations.StepRunsTheInstructionAtSeqPc : Prop :=
  ∀ (s : State) (i : Instr), s.rst = none → s.phase = .seq → s.pcPastTop = false → i.inRom = true → i.wf = true →
    memReadSeq s.cfg s.seqPc.toNat i.len = some (romBytes i) → step s = exec i s

/-- R200, R201: a step in IDLE with READY = 1 takes the message on the port and runs its handler. -/
def Obligations.StepRunsTheMessageOnThePort : Prop :=
  ∀ (s : State) (m : Message) (rest : List Message),
    s.rst = none → s.phase = .idle → s.ready = true → s.msgs = m :: rest →
    step s = exec (decodeMsg m) { s with msgs := rest } ∧ decode (.port m) = .ok (decodeMsg m)

/-- R51: what a SEQ read answers; a read that reaches SEQ_MEM_SIZE does not happen. -/
def Obligations.SeqReadStaysInsideTheRom : Prop :=
  ∀ (c : Config) (a n : Nat),
    (c.seqMemSize < a + n → memReadSeq c a n = none) ∧
    (a + n ≤ c.seqMemSize →
      ∃ bs, memReadSeq c a n = some bs ∧ bs.length = n ∧ ∀ k, k < n → bs[k]? = some (memRead c.seqMem (a + k)))

/-- R254, R108, R51: the checks of one step in SEQ, in their order. The fetch checks come whatever the bracket flags are;
the bracket checks come last. -/
def Obligations.ChecksComeInTheOrderOfR108 : Prop :=
  ∀ s : State, s.rst = none → s.phase = .seq → s.pcPastTop = false →
    let pc := s.seqPc.toNat
    let size := s.cfg.seqMemSize
    let byte := fun k => memRead s.cfg.seqMem (pc + k)
    (size ≤ pc → step s = .next (configFaulted .fetchRange s)) ∧
    (pc < size → definedOpcode (byte 0) = false → step s = .next (configFaulted .reservedOpcode s)) ∧
    (pc < size → byte 0 = 0x03 ∨ byte 0 = 0xFE → size ≤ pc + 1 → step s = .next (configFaulted .fetchRange s)) ∧
    (pc < size → byte 0 = 0x04 → size < pc + 3 → step s = .next (configFaulted .fetchRange s)) ∧
    (byte 0 = 0x04 → pc + 3 ≤ size → byte 2 = 0 → step s = .next (configFaulted .emptyArgs s)) ∧
    (byte 0 = 0x04 → pc + 3 ≤ size → byte 2 ≠ 0 → size < pc + 3 + (byte 2).toNat →
      step s = .next (configFaulted .fetchRange s)) ∧
    (byte 0 = 0x04 → byte 2 ≠ 0 → pc + 3 + (byte 2).toNat ≤ size → s.xferOpen = false →
      step s = .next (configFaulted .outsideTransfer s)) ∧
    (byte 0 = 0x03 ∨ byte 0 = 0xFE → pc + 2 ≤ size → s.xferOpen = false →
      step s = .next (configFaulted .outsideTransfer s)) ∧
    (pc < size → byte 0 = 0x01 → s.xferOpen = true → step s = .next (configFaulted .nestedStart s)) ∧
    (pc < size → byte 0 = 0x01 → s.xferOpen = false → s.xferSeen = true →
      step s = .next (configFaulted .secondTransfer s)) ∧
    (pc < size → byte 0 = 0x02 → s.xferOpen = false → step s = .next (configFaulted .unbalancedEndx s)) ∧
    (pc < size → byte 0 = 0xFF → s.xferOpen = true ∨ s.xferSeen = false →
      step s = .next (configFaulted .unbalancedEnd s))

/-- R21: SEQ_PC never wraps. Where it has been moved past 0xFFFF, the next fetch raises FETCH_RANGE, whatever the free
value is that SEQ_PC and so FAULT_PC hold. That FAULT_PC is SEQ_PC there, and not the 0xFFFF that R26 has for a fault not
tied to a ROM address, is the model's choice (notes/assumptions/10.md). -/
def Obligations.SeqPcNeverWraps : Prop :=
  ∀ s : State, s.rst = none → s.phase = .seq → s.pcPastTop = true → s.cfg.seqMemSize ≤ 65536 →
    step s = .next (configFaulted .fetchRange s)

/-- R106: in WAIT nothing is fetched and nothing emitted; DLY_CNT counts down by 1 a tick, and after DLY_CNT ticks the
interpreter goes on. That a step in WAIT is one tick is the model's choice (notes/assumptions/6.md). -/
def Obligations.DelayCounterCountsDownToZero : Prop :=
  ∀ s : State, s.rst = none → s.phase = .wait → s.dlyCnt ≠ 0 →
    (∀ k, k < s.dlyCnt.toNat →
      Steps k s { s with dlyCnt := s.dlyCnt - BitVec.ofNat 8 k, waitedMs := s.waitedMs + k }) ∧
    Steps s.dlyCnt.toNat s { s with dlyCnt := 0, phase := .seq, waitedMs := s.waitedMs + s.dlyCnt.toNat }

/-- R251, R253: FAULTED has no step; RST is the one way out of it. -/
def Obligations.FaultedHasNoStepButReset : Prop :=
  ∀ s : State, s.phase = .faulted →
    (s.rst = none → step s = .fault .noStepInFaulted) ∧
    (∀ c, s.rst = some c → ∃ t, step s = .next t ∧ t.fault = false ∧ t.phase = .idle)

/-! ### DrawTile -/

/-- R160: ROW for every latched tile row, with no reduction inside the panel, the inversion at its two ends, and the
example of R164 outside it. -/
def Obligations.WindowRowInvertsTheTileRow : Prop :=
  ∀ s : State,
    let t := s.computeWindow
    (t.row.toNat : Int) = ((s.cfg.tileH.toNat : Int) - 1 - (s.tY.toNat : Int)) % 256 ∧
    (s.tY.toNat < s.cfg.tileH.toNat →
      t.row.toNat = s.cfg.tileH.toNat - 1 - s.tY.toNat ∧ t.row.toNat < s.cfg.tileH.toNat) ∧
    (s.tY.toNat + 1 = s.cfg.tileH.toNat → t.row = 0) ∧
    (s.cfg.tileH = 25 → s.tY = 0 → t.row = 24) ∧
    (s.cfg.tileH = 25 → s.tY = 25 → t.row = 255)

/-- R161, R162: COL never needs its reduction; COL_END is PIX_W - 1. The calculator writes its three registers alone. -/
def Obligations.WindowColumnsAreExact : Prop :=
  ∀ s : State,
    let t := s.computeWindow
    t.col.toNat = s.tX.toNat * 8 + s.cfg.xOffset.toNat ∧ t.col.toNat ≤ 2295 ∧
    (s.tX = 3 → s.cfg.xOffset = 0 → t.col = 24) ∧
    (1 ≤ s.cfg.pixW.toNat → t.colEnd.toNat = s.cfg.pixW.toNat - 1 ∧ t.colEnd.toNat ≤ 0xFFFE) ∧
    (s.cfg.pixW = 200 → t.colEnd = 0x00C7) ∧
    t = { s with row := t.row, col := t.col, colEnd := t.colEnd }

/-- R180, R182: the transform complements every byte of a slice, and is its own inverse. -/
def Obligations.ConvertComplementsEachByte : Prop :=
  ∀ b : Block,
    (convert b).bytes = b.bytes.map (fun v => v ^^^ 0xFF) ∧ (convert b).bytes = b.bytes.map (fun v => ~~~v) ∧
    convert (convert b) = b

/-- R181, R35, R53: the data phase reads the eight bytes at T_PTR + 8*BLK_IDX and overwrites SCRATCH with their
complements, before it sends SCRATCH; a read that reaches 2^PA_WIDTH leaves the block stuck. That the conversion is a step of
its own, with the SendData due after it, is the model's choice (notes/assumptions/12.md), and the stop of the stuck block is
read by inference (notes/assumptions/9.md). -/
def Obligations.DataStepSendsOneConvertedBlock : Prop :=
  ∀ s : State, s.rst = none → s.phase = .drawData →
    let a := s.tPtr + 8 * s.blkIdx.toNat
    let sent : Block :=
      ⟨~~~(memRead s.pix a), ~~~(memRead s.pix (a + 1)), ~~~(memRead s.pix (a + 2)), ~~~(memRead s.pix (a + 3)),
        ~~~(memRead s.pix (a + 4)), ~~~(memRead s.pix (a + 5)), ~~~(memRead s.pix (a + 6)), ~~~(memRead s.pix (a + 7))⟩
    (s.blockDue = false → s.blkIdx.toNat < s.tCnt.toNat → a + 8 ≤ 2 ^ s.cfg.paWidth →
      step s = .next { s with scratch := sent, blockDue := true }) ∧
    (s.blockDue = false → s.blkIdx.toNat < s.tCnt.toNat → 2 ^ s.cfg.paWidth < a + 8 →
      step s = .fault .pixReadNotAdmitted) ∧
    (s.blockDue = true → s.busTakes = true →
      step s = .next { eventTaken (.sendData s.scratch) s with blkIdx := s.blkIdx + 1, blockDue := false }) ∧
    (s.blockDue = false → s.blkIdx.toNat < s.tCnt.toNat → a + 8 ≤ 2 ^ s.cfg.paWidth → s.busTakes = true →
      Steps 2 s { eventTaken (.sendData sent) s with scratch := sent, blkIdx := s.blkIdx + 1 })

/-- R221, R163: DRAW in an admitted state, on a buffer that R53 admits and a bus that accepts every event at some time,
runs to its end: one bracket with the nine events of the window burst and T_CNT data bursts, success, PSTATE unchanged,
memory unchanged. T_CNT may be 0. That SEQ_PC is unchanged after the burst is read by inference
(notes/assumptions/11.md). -/
def Obligations.DrawTileEmitsOneBracketAndSucceeds : Prop :=
  ∀ (s : State) (m : Message) (rest : List Message), Offered m rest s → m.tag = 15 →
    s.busAnswers = true → s.pstate ≠ .deepSleep → s.pstate ≠ .uninit → tileFits s.cfg m.tile = true →
    ∃ (n : Nat) (row : Byte) (col colEnd : Half) (scratch : Block),
      Steps n s { messageEnded true (latched 15 m.arg m.tile s) with
        msgs := rest
        trace := s.trace ++ drawTrace s.cfg s.pix m.tile
        bus := s.bus.drop (drawTrace s.cfg s.pix m.tile).length
        xferOpen := false
        row := row
        col := col
        colEnd := colEnd
        blkIdx := m.tile.cnt
        scratch := scratch
        burst := [] }

/-- R222: the worked example of DrawTile, for every pixel memory, buffer address and argument. -/
def Obligations.DrawTileWorkedExample : Prop :=
  ∀ (s : State) (arg : Byte) (p : Nat) (rest : List Message), Offered ⟨15, arg, ⟨3, 0, 3, p⟩⟩ rest s →
    s.busAnswers = true → s.pstate = .active → s.cfg.tileH = 25 → s.cfg.pixW = 200 → s.cfg.xOffset = 0 → p + 24 ≤ 2 ^ s.cfg.paWidth →
    ∃ t, Reaches s t ∧ t.phase = .idle ∧ t.done = true ∧ t.result = true ∧ t.msgs = rest ∧
      t.row = 24 ∧ t.col = 0x0018 ∧ t.colEnd = 0x00C7 ∧
      t.trace = s.trace ++
        [ .startTransfer
        , .sendCommand s.cfg.opColWindow, .sendArgs [0x18, 0x00, 0xC7, 0x00]
        , .sendCommand s.cfg.opRowWindow, .sendArgs [0x18, 0x18]
        , .sendCommand s.cfg.opColCursor, .sendArgs [0x18, 0x00]
        , .sendCommand s.cfg.opRowCursor, .sendArgs [0x18]
        , .sendCommand s.cfg.opRamWrite
        , .sendData (convert (pixBlock s.pix p)), .sendData (convert (pixBlock s.pix (p + 8)))
        , .sendData (convert (pixBlock s.pix (p + 16)))
        , .endTransfer ]

/-! ### Rules about the whole machine -/

/-- The invariant of the block's state holds at reset. It rests on reset values that are the model's choice: the empty ROM
of `Config.atReset` (notes/assumptions/1.md), T_PTR 0 (2.md), memories that list nothing (3.md), and
`burst`, `cmdSent` and `blockDue` with nothing under way (11.md, 12.md). -/
def Obligations.ResetStateMeetsTheInvariant : Prop := Inv State.reset

/-- Every step keeps the invariant of the block's state, from every state that meets it. Its clauses on the canonical form
of the memories, on T_PTR as a natural number, on the window burst (`burstWin`), on a SendArgs due (`argsDue`) and on a
SendData due (`dataDue`) are the model's choices (notes/assumptions/3.md, 14.md, 11.md, 12.md). -/
def Obligations.EveryStepKeepsTheInvariant : Prop :=
  ∀ s t : State, Inv s → step s = .next t → Inv t

/-- R145: the trace is made of complete brackets, with one open exactly while XFER_OPEN is 1. Every step keeps that. The
trace is the one since the last reset (notes/assumptions/13.md). -/
def Obligations.EveryStepKeepsTheBracketDiscipline : Prop :=
  bracketScan false State.reset.trace = some State.reset.xferOpen ∧
  ∀ s t : State, Inv s → bracketScan false s.trace = some s.xferOpen → step s = .next t →
    bracketScan false t.trace = some t.xferOpen

/-- R141: each event is presented and held until the bus accepts it. While the bus holds it nothing changes but the bus's
own answer, and the same event stays presented; when the bus accepts it, it is appended to the trace, once; a bus that never
accepts leaves the block stuck. Where no event is presented, none is emitted and the bus is not asked. The first part says it
of a step, the second of an instruction. The list of the bus's answers is the model's (notes/assumptions/7.md). -/
def Obligations.BusHoldsEachEventUntilItIsAccepted : Prop :=
  (∀ s : State, s.rst = none →
    (∀ e, s.presented = some e →
      (∀ ws, s.bus = .never :: ws → step s = .fault .busNeverAccepts) ∧
      (∀ k ws, s.bus = .after (k + 1) :: ws →
        step s = .next { s with bus := .after k :: ws } ∧
        ({ s with bus := .after k :: ws } : State).presented = some e) ∧
      (s.busTakes = true → ∃ t, step s = .next t ∧ t.trace = s.trace ++ [e] ∧ t.bus = s.bus.tail)) ∧
    (∀ t, s.presented = none → step s = .next t → t.trace = s.trace ∧ t.bus = s.bus)) ∧
  ∀ (i : Instr) (s : State),
    (∀ e, instrEvent i s = some e →
      (∀ ws, s.bus = .never :: ws → exec i s = .fault .busNeverAccepts) ∧
      (∀ k ws, s.bus = .after (k + 1) :: ws →
        exec i s = .next { s with bus := .after k :: ws } ∧ instrEvent i { s with bus := .after k :: ws } = some e) ∧
      (s.busTakes = true → ∃ t, exec i s = .next t ∧ t.trace = s.trace ++ [e] ∧ t.bus = s.bus.tail)) ∧
    (∀ t, instrEvent i s = none → exec i s = .next t → t.trace = s.trace ∧ t.bus = s.bus)

/-- R144: which part of the block emits each event. A step adds at most one event to the trace, and that one comes from the
instruction it fetched or from a phase of DrawTile; of a command with arguments the SendCommand comes first
(R104, R163), and a SendData sends what SCRATCH holds (R181). One event a step is the model's choice (notes/assumptions/7.md, 11.md, 12.md). -/
def Obligations.EveryEventComesFromItsPart : Prop :=
  ∀ s t : State, s.rst = none → step s = .next t →
    ∃ es, t.trace = s.trace ++ es ∧ es.length ≤ 1 ∧ ∀ e ∈ es,
      match e with
      | .startTransfer =>
        (s.phase = .seq ∧ fetchInstr s.cfg s.fetchAddr = some .start) ∨ (s.phase = .drawWin ∧ s.xferOpen = false)
      | .endTransfer => (s.phase = .seq ∧ fetchInstr s.cfg s.fetchAddr = some .endx) ∨ s.phase = .drawEnd
      | .sendCommand o =>
        (s.phase = .seq ∧ (fetchInstr s.cfg s.fetchAddr = some (.cmd o) ∨
          s.cmdSent = false ∧ ∃ args, args ≠ [] ∧ fetchInstr s.cfg s.fetchAddr = some (.cmda o args))) ∨
        (s.phase = .drawWin ∧ ∃ w ws, s.burst = w :: ws ∧ w.op = o ∧ (w.args = [] ∨ s.cmdSent = false))
      | .sendArgs args =>
        s.cmdSent = true ∧ args ≠ [] ∧
          ((s.phase = .seq ∧ ∃ o, fetchInstr s.cfg s.fetchAddr = some (.cmda o args)) ∨
            (s.phase = .drawWin ∧ ∃ w ws, s.burst = w :: ws ∧ w.args = args))
      | .sendData b => s.phase = .drawData ∧ s.blockDue = true ∧ b = s.scratch
      | .delay d => s.phase = .seq ∧ fetchInstr s.cfg s.fetchAddr = some (.dly d)

/-- R57, R63: no step but a reset writes the configuration, which holds the sequence ROM, or the pixel memory. -/
def Obligations.NoStepWritesConfigurationOrMemory : Prop :=
  ∀ s t : State, s.rst = none → step s = .next t → t.cfg = s.cfg ∧ t.pix = s.pix

/-- R27, R203: a step but a reset changes PSTATE only where it ends a message with success, to the value PEND_PS held. -/
def Obligations.PStateChangesOnlyAtASuccessfulEnd : Prop :=
  ∀ s t : State, s.rst = none → step s = .next t → t.pstate ≠ s.pstate →
    s.pendPs = some t.pstate ∧ t.result = true ∧ t.done = true ∧ t.phase = .idle

/-- R27, 90_conflicts.md C2: no step enters PS_LIGHT. -/
def Obligations.NoStepEntersPsLight : Prop :=
  ∀ s t : State, s.pstate ≠ .psLight → s.pendPs ≠ some .psLight → step s = .next t →
    t.pstate ≠ .psLight ∧ t.pendPs ≠ some .psLight

/-- R26: FAULT is sticky: no step but a reset clears it. A step that sets it is a step in SEQ whose instruction raises a
ConfigFault, and changes nothing else (R250, R251). That FAULT_PC is SEQ_PC for every fault, the fetch past 0xFFFF included,
so that none is one "not tied to a ROM address" with FAULT_PC 0xFFFF (R26), is the model's choice
(notes/assumptions/10.md). -/
def Obligations.FaultIsStickyAndPrecise : Prop :=
  ∀ s t : State, s.rst = none → step s = .next t →
    (s.fault = true → t.fault = true) ∧
    (s.fault = false → t.fault = true → s.phase = .seq ∧ ∃ cause, cause ≠ .none ∧ t = configFaulted cause s)

/-- R36: RAM_VALID is a ghost: states that differ in it alone take the same step, to states that differ in it alone. -/
def Obligations.RamValidNeverChangesBehaviour : Prop :=
  ∀ (s : State) (b : Bool),
    (∀ t, step s = .next t → ∃ b', step { s with ramValid := b } = .next { t with ramValid := b' }) ∧
    (∀ r, step s = .fault r → step { s with ramValid := b } = .fault r)

/-- R36: RAM_VALID becomes 1 at the end of Init and 0 at the end of SetPowerSave with a nonzero argument (the first
part), and a step but a reset changes it nowhere else (the second). -/
def Obligations.RamValidFollowsInitAndDeepSleep : Prop :=
  (∀ s : State, s.rst = none → s.phase = .seq → fetchInstr s.cfg s.fetchAddr = some .endSeq →
    s.xferOpen = false → s.xferSeen = true → s.seqQ = [] →
    ∃ t, step s = .next t ∧ t.phase = .idle ∧ t.result = true ∧
      (s.mTag = 10 → t.ramValid = true) ∧ (s.mTag = 11 → s.mArg ≠ 0 → t.ramValid = false)) ∧
  ∀ s t : State, Inv s → s.rst = none → step s = .next t → t.ramValid ≠ s.ramValid →
    t.phase = .idle ∧ t.result = true ∧
    ((t.ramValid = true ∧ t.mTag = 10) ∨ (t.ramValid = false ∧ t.mTag = 11 ∧ t.mArg ≠ 0))

/-! ### Stored sequences and messages as a whole -/

/-- R110, R82: on a bus that accepts every event at some time, a well-formed stored sequence runs to its END with exactly
its trace and its delays, and END finds the bracket closed. -/
def Obligations.WellFormedSequenceRunsToItsEnd : Prop :=
  ∀ (s : State) (base : Half), AtSequence base s → s.busAnswers = true → s.cfg.seqMemSize ≤ 65536 →
    wfSequence s.cfg base = true →
    ∃ (n : Nat) (pc : Half) (dly : Byte),
      Steps n s { s with
        seqPc := pc
        dlyCnt := dly
        trace := s.trace ++ sequenceTrace s.cfg base
        bus := s.bus.drop (sequenceTrace s.cfg base).length
        xferSeen := true
        waitedMs := s.waitedMs + sequenceDelay s.cfg base } ∧
      fetchInstr s.cfg pc.toNat = some .endSeq

/-- R83: on a bus that accepts every event at some time, the run-time checks fault on exactly the stored sequences that are
not well-formed. A well-formed one runs to its
END, which raises nothing; any other one runs into a ConfigFault before an END hands over, and its message never ends:
PSTATE, RAM_VALID, RESULT and DONE are as they were, and READY stays 0. -/
def Obligations.StoredSequenceFaultsExactlyWhenMalformed : Prop :=
  ∀ (s : State) (base : Half), AtSequence base s → s.busAnswers = true → s.ready = false → s.done = false → s.fault = false →
    s.cfg.seqMemSize ≤ 65536 →
    (wfSequence s.cfg base = true →
      ∃ u t, Reaches s u ∧ u.phase = .seq ∧ fetchInstr u.cfg u.fetchAddr = some .endSeq ∧ u.seqQ = s.seqQ ∧
        u.fault = false ∧ exec .endSeq u = .next t ∧ t.fault = false) ∧
    (wfSequence s.cfg base = false →
      ∃ u, Reaches s u ∧ u.phase = .faulted ∧ u.fault = true ∧ u.faultCause ≠ .none ∧ u.seqQ = s.seqQ ∧
        u.pstate = s.pstate ∧ u.ramValid = s.ramValid ∧ u.result = s.result ∧ u.done = false ∧ u.ready = false)

/-- R204, R245: the message level and the step level agree. Under the premises of R10, on a bus that accepts every event
at some time, every message the block accepts ends, with the trace, result, PSTATE and RAM_VALID that `op` gives it, in at least the time of its delays. -/
def Obligations.StepLevelAgreesWithMessageLevel : Prop :=
  ∀ (s : State) (m : Message) (rest : List Message), Offered m rest s → configPremises s.cfg = true → s.busAnswers = true →
    (m.tag = 15 → tileFits s.cfg m.tile = true) →
    ∃ t, Reaches s t ∧ t.rst = none ∧ t.phase = .idle ∧ t.ready = true ∧ t.done = true ∧ t.xferOpen = false ∧
      t.msgs = rest ∧ t.cfg = s.cfg ∧ t.pix = s.pix ∧ t.fault = s.fault ∧ t.faultCause = s.faultCause ∧
      t.faultPc = s.faultPc ∧ t.result = (op s.cfg s.pix s.pstate s.ramValid m).result ∧
      t.pstate = (op s.cfg s.pix s.pstate s.ramValid m).pstate ∧
      t.ramValid = (op s.cfg s.pix s.pstate s.ramValid m).ramValid ∧
      t.trace = s.trace ++ (op s.cfg s.pix s.pstate s.ramValid m).trace ∧
      t.bus = s.bus.drop (op s.cfg s.pix s.pstate s.ramValid m).trace.length ∧
      t.waitedMs = s.waitedMs + (op s.cfg s.pix s.pstate s.ramValid m).delayMs

/-- R245, R241: the transition table of PSTATE, message by message, with the results: failure is an unrecognised tag, or
DRAW in DEEP_SLEEP or UNINIT, and emits nothing. -/
def Obligations.PowerStateTransitionTable : Prop :=
  ∀ (s : State) (m : Message) (rest : List Message), Offered m rest s → configPremises s.cfg = true → s.busAnswers = true →
    (m.tag = 15 → tileFits s.cfg m.tile = true) →
    ∃ t, Reaches s t ∧ t.msgs = rest ∧ t.phase = .idle ∧ t.ready = true ∧ t.done = true ∧
      (m.tag = 10 → t.pstate = .active ∧ t.result = true) ∧
      (m.tag = 11 → m.arg = 0 → t.pstate = .active ∧ t.result = true) ∧
      (m.tag = 11 → m.arg ≠ 0 → t.pstate = .deepSleep ∧ t.result = true) ∧
      (m.tag = 15 → t.pstate = s.pstate ∧ (t.result = true ↔ s.pstate = .active ∨ s.pstate = .psLight)) ∧
      (m.tag = 16 → t.pstate = s.pstate ∧ t.result = true) ∧
      (m.tag = 9 ∨ m.tag = 13 → t.pstate = s.pstate ∧ t.result = true) ∧
      (recognisedTag m.tag = false → t.pstate = s.pstate ∧ t.result = false) ∧
      (t.result = false → t.trace = s.trace)

/-- R146: how many brackets each message emits, as `op` gives them at the message level. For an admitted DRAW whose buffer R53
refuses, which R204 leaves out, that `op` gives a complete bracket is the model's choice and says nothing of the block
(notes/assumptions/23.md). -/
def Obligations.EachMessageEmitsItsNumberOfBrackets : Prop :=
  ∀ (c : Config) (pix : Mem) (p : PState) (v : Bool) (tag arg : Byte) (tile : Tile), allSequencesWf c = true →
    let tr := (op c pix p v ⟨tag, arg, tile⟩).trace
    bracketScan false tr = some false ∧
    (tag = 10 → tr.count .startTransfer = 2) ∧
    (tag = 11 ∨ tag = 16 → tr.count .startTransfer = 1) ∧
    (tag = 15 → p = .active ∨ p = .psLight → tr.count .startTransfer = 1) ∧
    (tag = 15 → p = .uninit ∨ p = .deepSleep → tr = []) ∧
    (tag = 9 ∨ tag = 13 ∨ recognisedTag tag = false → tr = [])

/-- R234, R292, R233: REFRESH holds READY at 0 until it ends, and lasts at least SETTLE_MS of the update mode. -/
def Obligations.RefreshHoldsReadyForTheSettleTime : Prop :=
  ∀ (s : State) (m : Message) (rest : List Message), Offered m rest s → configPremises s.cfg = true → s.busAnswers = true →
    m.tag = 16 →
    ∃ (n : Nat) (t : State), Steps n s t ∧ t.phase = .idle ∧ t.done = true ∧ t.result = true ∧ t.pstate = s.pstate ∧
      s.waitedMs + s.cfg.settleMs ≤ t.waitedMs ∧
      ∀ k u, 0 < k → k < n → Steps k s u → u.ready = false

/-! ### Encoding -/

/-- R71, R73 to R76: decoding the encoding of any well-formed instruction gives it back, with every operand. -/
def Obligations.DecodeOfEncodeIsTheInstruction : Prop :=
  ∀ i : Instr, i.wf = true → decode (encode i) = .ok i

/-- R71, R72: each code has one meaning: what decodes to an instruction is its encoding, and is well-formed but for the
CMDA with n = 0. -/
def Obligations.EncodeOfDecodeIsTheCode : Prop :=
  ∀ (c : Code) (i : Instr), decode c = .ok i → encode i = c ∧ (i.wf = true ∨ ∃ o, i = .cmda o [])

/-- R72: a decoder finds the length of an instruction from its own bytes, with no prefix and no mode: whatever follows it
is left over. -/
def Obligations.InstructionLengthComesFromItsOwnBytes : Prop :=
  ∀ (i : Instr) (r : List Byte), i.inRom = true → i.wf = true → (∀ b, i ≠ .reserved b) →
    decodeSeq (romBytes i ++ r) = .ok (i, r) ∧
    (i = .start ∨ i = .endx ∨ i = .endSeq → (romBytes i).length = 1) ∧
    (∀ o, i = .cmd o → (romBytes i).length = 2) ∧
    (∀ d, i = .dly d → (romBytes i).length = 2) ∧
    (∀ o args, i = .cmda o args →
      (romBytes i).length = 3 + args.length ∧ (romBytes i)[2]? = some (BitVec.ofNat 8 args.length))

/-- R71, R84, R76: words written out from the spec's encodings, one or more of each kind of instruction and of message. -/
def Obligations.SpecWordsDecode : Prop :=
  decode (.rom [0x01]) = .ok .start ∧
  decode (.rom [0x02]) = .ok .endx ∧
  decode (.rom [0x03, 0xA1]) = .ok (.cmd 0xA1) ∧
  decode (.rom [0x04, 0xB2, 0x02, 0x10, 0x20]) = .ok (.cmda 0xB2 [0x10, 0x20]) ∧
  decode (.rom [0xFE, 0x64]) = .ok (.dly 100) ∧
  decode (.rom [0xFF]) = .ok .endSeq ∧
  decode (.rom [0x00]) = .ok (.reserved 0x00) ∧
  assemble (expandSequence [.cmd 0xA1, .cmda 0xB2 [0x10, 0x20], .dly 100]) =
    [0x01, 0x03, 0xA1, 0x04, 0xB2, 0x02, 0x10, 0x20, 0xFE, 0x64, 0x02, 0xFF] ∧
  decode (.port ⟨0x09, 0, ⟨0, 0, 0, 0⟩⟩) = .ok (.setup 0 ⟨0, 0, 0, 0⟩) ∧
  decode (.port ⟨0x0A, 0, ⟨0, 0, 0, 0⟩⟩) = .ok (.init 0 ⟨0, 0, 0, 0⟩) ∧
  decode (.port ⟨0x0B, 1, ⟨0, 0, 0, 0⟩⟩) = .ok (.powersave 1 ⟨0, 0, 0, 0⟩) ∧
  decode (.port ⟨0x0D, 1, ⟨0, 0, 0, 0⟩⟩) = .ok (.flip 1 ⟨0, 0, 0, 0⟩) ∧
  decode (.port ⟨0x10, 0, ⟨0, 0, 0, 0⟩⟩) = .ok (.refresh 0 ⟨0, 0, 0, 0⟩) ∧
  decode (.port ⟨0x0F, 0, ⟨3, 0, 3, 0x1000⟩⟩) = .ok (.draw 0 ⟨3, 0, 3, 0x1000⟩) ∧
  decode (.port ⟨14, 0, ⟨0, 0, 0, 0⟩⟩) = .ok (.unknownTag 14 0 ⟨0, 0, 0, 0⟩)

/-- R27, R250: the encodings of PSTATE and FAULT_CAUSE at the host port. -/
def Obligations.StatusOutputsAreEncodedAsTheTablesSay : Prop :=
  PState.uninit.bits = 0b00 ∧ PState.active.bits = 0b01 ∧ PState.psLight.bits = 0b10 ∧ PState.deepSleep.bits = 0b11 ∧
  FaultCause.none.code = 0 ∧ FaultCause.reservedOpcode.code = 1 ∧ FaultCause.fetchRange.code = 2 ∧
  FaultCause.emptyArgs.code = 3 ∧ FaultCause.nestedStart.code = 4 ∧ FaultCause.secondTransfer.code = 5 ∧
  FaultCause.unbalancedEndx.code = 6 ∧ FaultCause.outsideTransfer.code = 7 ∧ FaultCause.unbalancedEnd.code = 8 ∧
  ∀ s : State, s.outputs.pstate = s.pstate.bits ∧ s.outputs.faultCause = s.faultCause.code ∧
    s.outputs.ready = s.ready ∧ s.outputs.done = s.done ∧ s.outputs.result = s.result ∧ s.outputs.fault = s.fault ∧
    s.outputs.faultPc = s.faultPc

/-- R79: WAIT expands to q copies of DLY 255 and, if r > 0, DLY r: nothing but DLY, with durations that sum to W, and as
few of them as any such list. -/
def Obligations.WaitSplitsIntoTheFewestDelays : Prop :=
  ∀ w : Nat,
    expandWait w = List.replicate (w / 255) (.dly 255) ++
      (if 0 < w % 255 then [.dly (BitVec.ofNat 8 (w % 255))] else []) ∧
    (w = 0 → expandWait w = []) ∧
    delaySum (expandWait w) = w ∧ (∀ i ∈ expandWait w, ∃ d, i = .dly d) ∧ (expandWait w).length = (w + 254) / 255 ∧
    ∀ l : List Instr, (∀ i ∈ l, ∃ d, i = .dly d) → delaySum l = w → (w + 254) / 255 ≤ l.length

/-- R80, R82: the SEQUENCE form of any body of CMD, CMDA and DLY, placed in the ROM, decodes to itself and is
well-formed. -/
def Obligations.SequenceFormIsWellFormed : Prop :=
  ∀ (c : Config) (base : Half) (body : List Instr), (∀ i ∈ body, isBody i = true ∧ i.wf = true) →
    memReadSeq c base.toNat (assemble (expandSequence body)).length = some (assemble (expandSequence body)) →
    decodeSequence c base = some (expandSequence body) ∧ wfSequence c base = true
end

