-- ==== Sys2Proof/Laws/Memory.lean ====
section
/-!
SUPPORT. Byte memories: every operation keeps the canonical form, a read after a write, and what a SEQ read answers.
-/
namespace Sys2Proof.Machine

theorem memWfFrom_mono {lo lo' : Nat} {m : Mem} (h : memWfFrom lo m = true) (hl : lo' ≤ lo) : memWfFrom lo' m = true := by
  cases m with
  | nil => rfl
  | cons e m =>
    obtain ⟨a, v⟩ := e
    simp only [memWfFrom, Bool.and_eq_true, decide_eq_true_eq] at h ⊢
    exact ⟨⟨by omega, h.1.2⟩, h.2⟩

/-- Below the bound nothing is listed. -/
theorem memRead_below {lo a : Nat} {m : Mem} (h : memWfFrom lo m = true) (ha : a < lo) : memRead m a = memFill := by
  induction m generalizing lo with
  | nil => rfl
  | cons e m ih =>
    obtain ⟨b, v⟩ := e
    simp only [memWfFrom, Bool.and_eq_true, decide_eq_true_eq] at h
    simp only [memRead]
    rw [if_neg (by omega)]
    exact ih h.2 (by omega)

theorem memWrite_wfFrom {lo : Nat} {m : Mem} (a : Nat) (v : Byte) (h : memWfFrom lo m = true) (ha : lo ≤ a) :
    memWfFrom lo (memWrite m a v) = true := by
  induction m generalizing lo with
  | nil => by_cases hv : v = memFill <;> simp [memWrite, memWfFrom, hv, ha]
  | cons e m ih =>
    obtain ⟨b, u⟩ := e
    have h' := h
    simp only [memWfFrom, Bool.and_eq_true, decide_eq_true_eq] at h'
    obtain ⟨⟨hlb, hu⟩, hm⟩ := h'
    simp only [memWrite]
    by_cases hab : a < b
    · rw [if_pos hab]
      by_cases hv : v = memFill
      · rwa [if_pos hv]
      · rw [if_neg hv]
        simp only [memWfFrom, Bool.and_eq_true, decide_eq_true_eq]
        exact ⟨⟨ha, hv⟩, ⟨⟨by omega, hu⟩, hm⟩⟩
    · rw [if_neg hab]
      by_cases he : a = b
      · rw [if_pos he]
        by_cases hv : v = memFill
        · rw [if_pos hv]; exact memWfFrom_mono hm (by omega)
        · rw [if_neg hv]
          simp only [memWfFrom, Bool.and_eq_true, decide_eq_true_eq]
          subst he
          exact ⟨⟨ha, hv⟩, hm⟩
      · rw [if_neg he]
        simp only [memWfFrom, Bool.and_eq_true, decide_eq_true_eq]
        exact ⟨⟨hlb, hu⟩, ih hm (by omega)⟩

/-- A write keeps the canonical form. -/
theorem memWrite_wf {m : Mem} (a : Nat) (v : Byte) (h : memWf m = true) : memWf (memWrite m a v) = true :=
  memWrite_wfFrom a v h (Nat.zero_le a)

/-- So do writes at consecutive addresses. -/
theorem memWriteBytes_wf {m : Mem} (a : Nat) (vs : List Byte) (h : memWf m = true) :
    memWf (memWriteBytes m a vs) = true := by
  induction vs generalizing m a with
  | nil => exact h
  | cons v vs ih => exact ih (a + 1) (memWrite_wf a v h)

/-- A read after a write: the written byte at its address, what was there at every other. -/
theorem memRead_memWrite_from {lo : Nat} {m : Mem} (a : Nat) (v : Byte) (x : Nat) (h : memWfFrom lo m = true) :
    memRead (memWrite m a v) x = if x = a then v else memRead m x := by
  induction m generalizing lo with
  | nil =>
    have hx' : (a = x) = (x = a) := propext eq_comm
    by_cases hv : v = memFill <;> by_cases hx : x = a <;> simp [memWrite, memRead, hv, hx, hx']
  | cons e m ih =>
    obtain ⟨b, u⟩ := e
    have h' := h
    simp only [memWfFrom, Bool.and_eq_true, decide_eq_true_eq] at h'
    obtain ⟨⟨hlb, hu⟩, hm⟩ := h'
    simp only [memWrite]
    by_cases hab : a < b
    · rw [if_pos hab]
      by_cases hv : v = memFill
      · rw [if_pos hv]
        by_cases hx : x = a
        · rw [if_pos hx]
          subst hx
          simp only [memRead]
          rw [if_neg (by omega), memRead_below hm (by omega), hv]
        · rw [if_neg hx]
      · rw [if_neg hv]
        by_cases hx : x = a
        · simp [memRead, hx]
        · have : ¬ a = x := fun q => hx q.symm
          simp [memRead, hx, this]
    · rw [if_neg hab]
      by_cases he : a = b
      · subst he
        rw [if_pos rfl]
        by_cases hv : v = memFill
        · rw [if_pos hv]
          by_cases hx : x = a
          · subst hx; rw [if_pos rfl, memRead_below hm (by omega), hv]
          · have : ¬ a = x := fun q => hx q.symm
            simp [memRead, hx, this]
        · rw [if_neg hv]
          by_cases hx : x = a
          · simp [memRead, hx]
          · have : ¬ a = x := fun q => hx q.symm
            simp [memRead, hx, this]
      · rw [if_neg he]
        simp only [memRead]
        rw [ih hm]
        by_cases hbx : b = x
        · subst hbx; rw [if_pos rfl, if_pos rfl, if_neg (by omega)]
        · rw [if_neg hbx, if_neg hbx]

theorem memRead_memWrite {m : Mem} (a : Nat) (v : Byte) (x : Nat) (h : memWf m = true) :
    memRead (memWrite m a v) x = if x = a then v else memRead m x :=
  memRead_memWrite_from a v x h

/-- Reads after writes at consecutive addresses: `vs` from `a` on, everything else as before. -/
theorem memRead_memWriteBytes {m : Mem} (a : Nat) (vs : List Byte) (x : Nat) (h : memWf m = true) :
    memRead (memWriteBytes m a vs) x = if a ≤ x then vs.getD (x - a) (memRead m x) else memRead m x := by
  induction vs generalizing m a with
  | nil => simp [memWriteBytes]
  | cons v vs ih =>
    simp only [memWriteBytes]
    rw [ih (a + 1) (memWrite_wf a v h), memRead_memWrite a v x h]
    by_cases hx : a ≤ x
    · by_cases he : x = a
      · subst he; simp
      · obtain ⟨k, rfl⟩ : ∃ k, x = a + 1 + k := ⟨x - (a + 1), by omega⟩
        rw [if_pos (by omega), if_pos hx, if_neg he]
        have h1 : a + 1 + k - (a + 1) = k := by omega
        have h2 : a + 1 + k - a = k + 1 := by omega
        rw [h1, h2, List.getD_cons_succ]
    · rw [if_neg (by omega), if_neg hx, if_neg (by omega)]

@[simp] theorem memBytes_length (m : Mem) (a n : Nat) : (memBytes m a n).length = n := by
  induction n generalizing a with
  | zero => rfl
  | succ n ih => simp [memBytes, ih]

/-- Reading `j + k` bytes is reading `j` and then `k`. -/
theorem memBytes_add (m : Mem) (a j k : Nat) : memBytes m a (j + k) = memBytes m a j ++ memBytes m (a + j) k := by
  induction j generalizing a with
  | zero => simp [memBytes]
  | succ j ih =>
    rw [Nat.add_right_comm]
    simp only [memBytes, List.cons_append]
    rw [ih, show a + 1 + j = a + (j + 1) by omega]

/-- Bytes written at consecutive addresses are read back. -/
theorem memBytes_memWriteBytes {m : Mem} (a : Nat) (vs : List Byte) (h : memWf m = true) :
    memBytes (memWriteBytes m a vs) a vs.length = vs := by
  have key : ∀ j, j ≤ vs.length → memBytes (memWriteBytes m a vs) (a + (vs.length - j)) j = vs.drop (vs.length - j) := by
    intro j
    induction j with
    | zero => intro _; simp [memBytes]
    | succ j ih =>
      intro hj
      simp only [memBytes]
      rw [memRead_memWriteBytes a vs _ h, if_pos (by omega),
        show a + (vs.length - (j + 1)) + 1 = a + (vs.length - j) by omega, ih (by omega),
        show a + (vs.length - (j + 1)) - a = vs.length - (j + 1) by omega]
      have hlt : vs.length - (j + 1) < vs.length := by omega
      rw [List.drop_eq_getElem_cons hlt, show vs.length - (j + 1) + 1 = vs.length - j by omega,
        List.getD_eq_getElem _ _ hlt]
  simpa using key vs.length (Nat.le_refl _)

/-- What a SEQ read answers, exactly (R51). -/
theorem memReadSeq_eq_some {c : Config} {a n : Nat} {bs : List Byte} :
    memReadSeq c a n = some bs ↔ a + n ≤ c.seqMemSize ∧ memBytes c.seqMem a n = bs := by
  unfold memReadSeq
  split
  · simp; omega
  · simp; omega

theorem memReadSeq_eq_none {c : Config} {a n : Nat} : memReadSeq c a n = none ↔ c.seqMemSize < a + n := by
  unfold memReadSeq
  split <;> simp <;> omega

/-- A SEQ read answers as many bytes as it was asked for. -/
theorem memReadSeq_length {c : Config} {a n : Nat} {bs : List Byte} (h : memReadSeq c a n = some bs) : bs.length = n := by
  rw [← (memReadSeq_eq_some.mp h).2, memBytes_length]

/-- What a PIX read answers, exactly (R53). -/
theorem memReadPix_eq_some {s : State} {a : Nat} {b : Block} :
    memReadPix s a = some b ↔ pixAdmits s a 8 = true ∧ pixBlock s.pix a = b := by
  unfold memReadPix
  split <;> simp_all

theorem memReadPix_eq_none {s : State} {a : Nat} : memReadPix s a = none ↔ pixAdmits s a 8 = false := by
  unfold memReadPix
  split <;> simp_all

end Sys2Proof.Machine
end

