-- ==== Sys2Proof/Laws/Decode.lean ====
section
/-!
SUPPORT. The decoder on the encoder's words, and the fetch on ROM bytes that hold an instruction's encoding.
-/
namespace Sys2Proof

@[simp] theorem decodeSeq_start (r : List Byte) : decodeSeq (0x01 :: r) = .ok (.start, r) := rfl
@[simp] theorem decodeSeq_endx (r : List Byte) : decodeSeq (0x02 :: r) = .ok (.endx, r) := rfl
@[simp] theorem decodeSeq_cmd (op : Byte) (r : List Byte) : decodeSeq (0x03 :: op :: r) = .ok (.cmd op, r) := rfl
@[simp] theorem decodeSeq_dly (d : Byte) (r : List Byte) : decodeSeq (0xFE :: d :: r) = .ok (.dly d, r) := rfl
@[simp] theorem decodeSeq_endSeq (r : List Byte) : decodeSeq (0xFF :: r) = .ok (.endSeq, r) := rfl

theorem decodeSeq_cmda (op n : Byte) (r : List Byte) (h : n.toNat ≤ r.length) :
    decodeSeq (0x04 :: op :: n :: r) = .ok (.cmda op (r.take n.toNat), r.drop n.toNat) := by
  simp [decodeSeq, h]

theorem toNat_ofNat_length {args : List Byte} (h : args.length ≤ 255) : (BitVec.ofNat 8 args.length).toNat = args.length := by
  rw [BitVec.toNat_ofNat]; exact Nat.mod_eq_of_lt (by omega)

theorem decodeSeq_reserved {b : Byte} (r : List Byte) (h : definedOpcode b = false) :
    decodeSeq (b :: r) = .ok (.reserved b, r) := by
  simp only [definedOpcode, Bool.or_eq_false_iff, beq_eq_false_iff_ne] at h
  obtain ⟨⟨⟨⟨⟨h1, h2⟩, h3⟩, h4⟩, h5⟩, h6⟩ := h
  simp only [decodeSeq, if_neg h1, if_neg h2, if_neg h3, if_neg h4, if_neg h5, if_neg h6]

/-- An instruction of the byte code decodes from its own bytes, whatever follows them (R72). The one operand condition is
CMDA's count of at most 255. -/
theorem decodeSeq_romBytes {i : Instr} (hrom : i.inRom = true) (hwf : i.wf = true) (r : List Byte) :
    decodeSeq (romBytes i ++ r) = .ok (i, r) := by
  cases i with
  | cmda op args =>
    simp only [Instr.wf, decide_eq_true_eq] at hwf
    have hn := toNat_ofNat_length hwf.2
    simp only [romBytes, encode, List.cons_append]
    rw [decodeSeq_cmda _ _ _ (by rw [hn]; simp), hn]
    simp
  | reserved b =>
    simp only [Instr.wf, Bool.not_eq_true'] at hwf
    simpa [romBytes, encode] using decodeSeq_reserved r hwf
  | start => rfl
  | endx => rfl
  | cmd _ => rfl
  | dly _ => rfl
  | endSeq => rfl
  | setup _ _ => simp [Instr.inRom, encode] at hrom
  | init _ _ => simp [Instr.inRom, encode] at hrom
  | powersave _ _ => simp [Instr.inRom, encode] at hrom
  | flip _ _ => simp [Instr.inRom, encode] at hrom
  | draw _ _ => simp [Instr.inRom, encode] at hrom
  | refresh _ _ => simp [Instr.inRom, encode] at hrom
  | unknownTag _ _ _ => simp [Instr.inRom, encode] at hrom

theorem decodeMsg_unknown {t a : Byte} {tile : Tile} (h : recognisedTag t = false) :
    decodeMsg ⟨t, a, tile⟩ = .unknownTag t a tile := by
  simp only [recognisedTag, Bool.or_eq_false_iff, beq_eq_false_iff_ne] at h
  obtain ⟨⟨⟨⟨⟨h1, h2⟩, h3⟩, h4⟩, h5⟩, h6⟩ := h
  simp only [decodeMsg, if_neg h1, if_neg h2, if_neg h3, if_neg h4, if_neg h5, if_neg h6]

/-- A reserved opcode byte stands alone (R72). -/
theorem operandForm_reserved {b : Byte} (h : definedOpcode b = false) : operandForm b = .fixed 0 := by
  simp only [definedOpcode, Bool.or_eq_false_iff, beq_eq_false_iff_ne] at h
  obtain ⟨⟨⟨⟨⟨_, _⟩, h3⟩, h4⟩, h5⟩, _⟩ := h
  simp only [operandForm, if_neg h3, if_neg h4, if_neg h5]

namespace Machine

/-- Bytes in the ROM: the part read first is there too. -/
theorem memReadSeq_append {c : Config} {pc : Nat} {xs ys : List Byte}
    (h : memReadSeq c pc (xs ++ ys).length = some (xs ++ ys)) : memReadSeq c pc xs.length = some xs := by
  rw [memReadSeq_eq_some] at h ⊢
  rw [List.length_append] at h
  obtain ⟨hle, hb⟩ := h
  rw [memBytes_add] at hb
  have := List.append_inj hb (memBytes_length _ _ _)
  exact ⟨by omega, this.1⟩

/-- ... and so is the part after it. -/
theorem memReadSeq_drop {c : Config} {pc : Nat} {xs ys : List Byte}
    (h : memReadSeq c pc (xs ++ ys).length = some (xs ++ ys)) : memReadSeq c (pc + xs.length) ys.length = some ys := by
  rw [memReadSeq_eq_some] at h ⊢
  rw [List.length_append] at h
  obtain ⟨hle, hb⟩ := h
  rw [memBytes_add] at hb
  have := List.append_inj hb (memBytes_length _ _ _)
  exact ⟨by omega, this.2⟩

/-- The fetch reads exactly the bytes of the instruction that stands at the address (R72, R108). -/
theorem fetchBytes_romBytes {c : Config} {pc : Nat} {i : Instr} (hrom : i.inRom = true) (hwf : i.wf = true)
    (h : memReadSeq c pc i.len = some (romBytes i)) : fetchBytes c pc = some (romBytes i) := by
  cases i with
  | cmda op args =>
    simp only [Instr.wf, decide_eq_true_eq] at hwf
    have hn := toNat_ofNat_length hwf.2
    simp only [Instr.len, romBytes, encode] at h ⊢
    have h1 : memReadSeq c pc 1 = some [0x04] :=
      memReadSeq_append (xs := [0x04]) (ys := op :: BitVec.ofNat 8 args.length :: args) h
    have h3 : memReadSeq c pc 3 = some [0x04, op, BitVec.ofNat 8 args.length] :=
      memReadSeq_append (xs := [0x04, op, BitVec.ofNat 8 args.length]) (ys := args) h
    have h2 : memReadSeq c (pc + 1) 2 = some [op, BitVec.ofNat 8 args.length] :=
      memReadSeq_drop (xs := [0x04]) (ys := [op, BitVec.ofNat 8 args.length]) h3
    simp only [fetchBytes, h1, h2, operandForm]
    simp only [List.length_cons] at h
    simp only [show ((4 : Byte) = 3) = False by decide, show ((4 : Byte) = 254) = False by decide, if_false, if_true, hn]
    rw [show 3 + args.length = args.length + 1 + 1 + 1 by omega]
    exact h
  | reserved b =>
    simp only [Instr.wf, Bool.not_eq_true'] at hwf
    simp only [Instr.len, romBytes, encode, List.length_singleton] at h ⊢
    simp only [fetchBytes, h, operandForm_reserved hwf]
  | cmd op =>
    simp only [Instr.len, romBytes, encode] at h ⊢
    have h1 : memReadSeq c pc 1 = some [0x03] := memReadSeq_append (xs := [0x03]) (ys := [op]) h
    simp only [fetchBytes, h1]
    exact h
  | dly d =>
    simp only [Instr.len, romBytes, encode] at h ⊢
    have h1 : memReadSeq c pc 1 = some [0xFE] := memReadSeq_append (xs := [0xFE]) (ys := [d]) h
    simp only [fetchBytes, h1]
    exact h
  | start =>
    simp only [Instr.len, romBytes, encode, List.length_singleton] at h ⊢
    simp only [fetchBytes, h]; exact h
  | endx =>
    simp only [Instr.len, romBytes, encode, List.length_singleton] at h ⊢
    simp only [fetchBytes, h]; exact h
  | endSeq =>
    simp only [Instr.len, romBytes, encode, List.length_singleton] at h ⊢
    simp only [fetchBytes, h]; exact h
  | setup _ _ => simp [Instr.inRom, encode] at hrom
  | init _ _ => simp [Instr.inRom, encode] at hrom
  | powersave _ _ => simp [Instr.inRom, encode] at hrom
  | flip _ _ => simp [Instr.inRom, encode] at hrom
  | draw _ _ => simp [Instr.inRom, encode] at hrom
  | refresh _ _ => simp [Instr.inRom, encode] at hrom
  | unknownTag _ _ _ => simp [Instr.inRom, encode] at hrom

/-- The fetch of an instruction that stands in the ROM. -/
theorem fetchInstr_romBytes {c : Config} {pc : Nat} {i : Instr} (hrom : i.inRom = true) (hwf : i.wf = true)
    (h : memReadSeq c pc i.len = some (romBytes i)) : fetchInstr c pc = some i := by
  have hd := decodeSeq_romBytes hrom hwf []
  rw [List.append_nil] at hd
  simp only [fetchInstr, fetchBytes_romBytes hrom hwf h, hd]

end Machine
end Sys2Proof
end

