-- ==== Sys2Proof/Laws/State.lean ====
section
/-!
SUPPORT. One lemma a field and update: what a shared operation makes of each field of State. No later proof unfolds a
record update.
-/
namespace Sys2Proof.Machine

/-! ### emit -/

@[simp] theorem State.emit_pstate (e : BusEvent) (s : State) : (s.emit e).pstate = s.pstate := rfl
@[simp] theorem State.emit_phase (e : BusEvent) (s : State) : (s.emit e).phase = s.phase := rfl
@[simp] theorem State.emit_seqPc (e : BusEvent) (s : State) : (s.emit e).seqPc = s.seqPc := rfl
@[simp] theorem State.emit_seqQ (e : BusEvent) (s : State) : (s.emit e).seqQ = s.seqQ := rfl
@[simp] theorem State.emit_pendPs (e : BusEvent) (s : State) : (s.emit e).pendPs = s.pendPs := rfl
@[simp] theorem State.emit_dlyCnt (e : BusEvent) (s : State) : (s.emit e).dlyCnt = s.dlyCnt := rfl
@[simp] theorem State.emit_xferOpen (e : BusEvent) (s : State) : (s.emit e).xferOpen = s.xferOpen := rfl
@[simp] theorem State.emit_xferSeen (e : BusEvent) (s : State) : (s.emit e).xferSeen = s.xferSeen := rfl
@[simp] theorem State.emit_result (e : BusEvent) (s : State) : (s.emit e).result = s.result := rfl
@[simp] theorem State.emit_done (e : BusEvent) (s : State) : (s.emit e).done = s.done := rfl
@[simp] theorem State.emit_ready (e : BusEvent) (s : State) : (s.emit e).ready = s.ready := rfl
@[simp] theorem State.emit_fault (e : BusEvent) (s : State) : (s.emit e).fault = s.fault := rfl
@[simp] theorem State.emit_faultCause (e : BusEvent) (s : State) : (s.emit e).faultCause = s.faultCause := rfl
@[simp] theorem State.emit_faultPc (e : BusEvent) (s : State) : (s.emit e).faultPc = s.faultPc := rfl
@[simp] theorem State.emit_ramValid (e : BusEvent) (s : State) : (s.emit e).ramValid = s.ramValid := rfl
@[simp] theorem State.emit_mTag (e : BusEvent) (s : State) : (s.emit e).mTag = s.mTag := rfl
@[simp] theorem State.emit_mArg (e : BusEvent) (s : State) : (s.emit e).mArg = s.mArg := rfl
@[simp] theorem State.emit_tX (e : BusEvent) (s : State) : (s.emit e).tX = s.tX := rfl
@[simp] theorem State.emit_tY (e : BusEvent) (s : State) : (s.emit e).tY = s.tY := rfl
@[simp] theorem State.emit_tCnt (e : BusEvent) (s : State) : (s.emit e).tCnt = s.tCnt := rfl
@[simp] theorem State.emit_tPtr (e : BusEvent) (s : State) : (s.emit e).tPtr = s.tPtr := rfl
@[simp] theorem State.emit_row (e : BusEvent) (s : State) : (s.emit e).row = s.row := rfl
@[simp] theorem State.emit_col (e : BusEvent) (s : State) : (s.emit e).col = s.col := rfl
@[simp] theorem State.emit_colEnd (e : BusEvent) (s : State) : (s.emit e).colEnd = s.colEnd := rfl
@[simp] theorem State.emit_blkIdx (e : BusEvent) (s : State) : (s.emit e).blkIdx = s.blkIdx := rfl
@[simp] theorem State.emit_scratch (e : BusEvent) (s : State) : (s.emit e).scratch = s.scratch := rfl
@[simp] theorem State.emit_burst (e : BusEvent) (s : State) : (s.emit e).burst = s.burst := rfl
@[simp] theorem State.emit_cfg (e : BusEvent) (s : State) : (s.emit e).cfg = s.cfg := rfl
@[simp] theorem State.emit_pix (e : BusEvent) (s : State) : (s.emit e).pix = s.pix := rfl
@[simp] theorem State.emit_cmdSent (e : BusEvent) (s : State) : (s.emit e).cmdSent = s.cmdSent := rfl
@[simp] theorem State.emit_blockDue (e : BusEvent) (s : State) : (s.emit e).blockDue = s.blockDue := rfl
@[simp] theorem State.emit_bus (e : BusEvent) (s : State) : (s.emit e).bus = s.bus.tail := rfl
@[simp] theorem State.emit_msgs (e : BusEvent) (s : State) : (s.emit e).msgs = s.msgs := rfl
@[simp] theorem State.emit_rst (e : BusEvent) (s : State) : (s.emit e).rst = s.rst := rfl
@[simp] theorem State.emit_trace (e : BusEvent) (s : State) : (s.emit e).trace = s.trace ++ [e] := rfl
@[simp] theorem State.emit_oldTraces (e : BusEvent) (s : State) : (s.emit e).oldTraces = s.oldTraces := rfl
@[simp] theorem State.emit_pcPastTop (e : BusEvent) (s : State) : (s.emit e).pcPastTop = s.pcPastTop := rfl
@[simp] theorem State.emit_freeCnt (e : BusEvent) (s : State) : (s.emit e).freeCnt = s.freeCnt := rfl
@[simp] theorem State.emit_waitedMs (e : BusEvent) (s : State) : (s.emit e).waitedMs = s.waitedMs := rfl

/-! ### commandSent -/

@[simp] theorem State.commandSent_pstate (s : State) : (s.commandSent).pstate = s.pstate := rfl
@[simp] theorem State.commandSent_phase (s : State) : (s.commandSent).phase = s.phase := rfl
@[simp] theorem State.commandSent_seqPc (s : State) : (s.commandSent).seqPc = s.seqPc := rfl
@[simp] theorem State.commandSent_seqQ (s : State) : (s.commandSent).seqQ = s.seqQ := rfl
@[simp] theorem State.commandSent_pendPs (s : State) : (s.commandSent).pendPs = s.pendPs := rfl
@[simp] theorem State.commandSent_dlyCnt (s : State) : (s.commandSent).dlyCnt = s.dlyCnt := rfl
@[simp] theorem State.commandSent_xferOpen (s : State) : (s.commandSent).xferOpen = s.xferOpen := rfl
@[simp] theorem State.commandSent_xferSeen (s : State) : (s.commandSent).xferSeen = s.xferSeen := rfl
@[simp] theorem State.commandSent_result (s : State) : (s.commandSent).result = s.result := rfl
@[simp] theorem State.commandSent_done (s : State) : (s.commandSent).done = s.done := rfl
@[simp] theorem State.commandSent_ready (s : State) : (s.commandSent).ready = s.ready := rfl
@[simp] theorem State.commandSent_fault (s : State) : (s.commandSent).fault = s.fault := rfl
@[simp] theorem State.commandSent_faultCause (s : State) : (s.commandSent).faultCause = s.faultCause := rfl
@[simp] theorem State.commandSent_faultPc (s : State) : (s.commandSent).faultPc = s.faultPc := rfl
@[simp] theorem State.commandSent_ramValid (s : State) : (s.commandSent).ramValid = s.ramValid := rfl
@[simp] theorem State.commandSent_mTag (s : State) : (s.commandSent).mTag = s.mTag := rfl
@[simp] theorem State.commandSent_mArg (s : State) : (s.commandSent).mArg = s.mArg := rfl
@[simp] theorem State.commandSent_tX (s : State) : (s.commandSent).tX = s.tX := rfl
@[simp] theorem State.commandSent_tY (s : State) : (s.commandSent).tY = s.tY := rfl
@[simp] theorem State.commandSent_tCnt (s : State) : (s.commandSent).tCnt = s.tCnt := rfl
@[simp] theorem State.commandSent_tPtr (s : State) : (s.commandSent).tPtr = s.tPtr := rfl
@[simp] theorem State.commandSent_row (s : State) : (s.commandSent).row = s.row := rfl
@[simp] theorem State.commandSent_col (s : State) : (s.commandSent).col = s.col := rfl
@[simp] theorem State.commandSent_colEnd (s : State) : (s.commandSent).colEnd = s.colEnd := rfl
@[simp] theorem State.commandSent_blkIdx (s : State) : (s.commandSent).blkIdx = s.blkIdx := rfl
@[simp] theorem State.commandSent_scratch (s : State) : (s.commandSent).scratch = s.scratch := rfl
@[simp] theorem State.commandSent_burst (s : State) : (s.commandSent).burst = s.burst := rfl
@[simp] theorem State.commandSent_cfg (s : State) : (s.commandSent).cfg = s.cfg := rfl
@[simp] theorem State.commandSent_pix (s : State) : (s.commandSent).pix = s.pix := rfl
@[simp] theorem State.commandSent_cmdSent (s : State) : (s.commandSent).cmdSent = true := rfl
@[simp] theorem State.commandSent_blockDue (s : State) : (s.commandSent).blockDue = s.blockDue := rfl
@[simp] theorem State.commandSent_bus (s : State) : (s.commandSent).bus = s.bus := rfl
@[simp] theorem State.commandSent_msgs (s : State) : (s.commandSent).msgs = s.msgs := rfl
@[simp] theorem State.commandSent_rst (s : State) : (s.commandSent).rst = s.rst := rfl
@[simp] theorem State.commandSent_trace (s : State) : (s.commandSent).trace = s.trace := rfl
@[simp] theorem State.commandSent_oldTraces (s : State) : (s.commandSent).oldTraces = s.oldTraces := rfl
@[simp] theorem State.commandSent_pcPastTop (s : State) : (s.commandSent).pcPastTop = s.pcPastTop := rfl
@[simp] theorem State.commandSent_freeCnt (s : State) : (s.commandSent).freeCnt = s.freeCnt := rfl
@[simp] theorem State.commandSent_waitedMs (s : State) : (s.commandSent).waitedMs = s.waitedMs := rfl

/-! ### argsSent -/

@[simp] theorem State.argsSent_pstate (s : State) : (s.argsSent).pstate = s.pstate := rfl
@[simp] theorem State.argsSent_phase (s : State) : (s.argsSent).phase = s.phase := rfl
@[simp] theorem State.argsSent_seqPc (s : State) : (s.argsSent).seqPc = s.seqPc := rfl
@[simp] theorem State.argsSent_seqQ (s : State) : (s.argsSent).seqQ = s.seqQ := rfl
@[simp] theorem State.argsSent_pendPs (s : State) : (s.argsSent).pendPs = s.pendPs := rfl
@[simp] theorem State.argsSent_dlyCnt (s : State) : (s.argsSent).dlyCnt = s.dlyCnt := rfl
@[simp] theorem State.argsSent_xferOpen (s : State) : (s.argsSent).xferOpen = s.xferOpen := rfl
@[simp] theorem State.argsSent_xferSeen (s : State) : (s.argsSent).xferSeen = s.xferSeen := rfl
@[simp] theorem State.argsSent_result (s : State) : (s.argsSent).result = s.result := rfl
@[simp] theorem State.argsSent_done (s : State) : (s.argsSent).done = s.done := rfl
@[simp] theorem State.argsSent_ready (s : State) : (s.argsSent).ready = s.ready := rfl
@[simp] theorem State.argsSent_fault (s : State) : (s.argsSent).fault = s.fault := rfl
@[simp] theorem State.argsSent_faultCause (s : State) : (s.argsSent).faultCause = s.faultCause := rfl
@[simp] theorem State.argsSent_faultPc (s : State) : (s.argsSent).faultPc = s.faultPc := rfl
@[simp] theorem State.argsSent_ramValid (s : State) : (s.argsSent).ramValid = s.ramValid := rfl
@[simp] theorem State.argsSent_mTag (s : State) : (s.argsSent).mTag = s.mTag := rfl
@[simp] theorem State.argsSent_mArg (s : State) : (s.argsSent).mArg = s.mArg := rfl
@[simp] theorem State.argsSent_tX (s : State) : (s.argsSent).tX = s.tX := rfl
@[simp] theorem State.argsSent_tY (s : State) : (s.argsSent).tY = s.tY := rfl
@[simp] theorem State.argsSent_tCnt (s : State) : (s.argsSent).tCnt = s.tCnt := rfl
@[simp] theorem State.argsSent_tPtr (s : State) : (s.argsSent).tPtr = s.tPtr := rfl
@[simp] theorem State.argsSent_row (s : State) : (s.argsSent).row = s.row := rfl
@[simp] theorem State.argsSent_col (s : State) : (s.argsSent).col = s.col := rfl
@[simp] theorem State.argsSent_colEnd (s : State) : (s.argsSent).colEnd = s.colEnd := rfl
@[simp] theorem State.argsSent_blkIdx (s : State) : (s.argsSent).blkIdx = s.blkIdx := rfl
@[simp] theorem State.argsSent_scratch (s : State) : (s.argsSent).scratch = s.scratch := rfl
@[simp] theorem State.argsSent_burst (s : State) : (s.argsSent).burst = s.burst := rfl
@[simp] theorem State.argsSent_cfg (s : State) : (s.argsSent).cfg = s.cfg := rfl
@[simp] theorem State.argsSent_pix (s : State) : (s.argsSent).pix = s.pix := rfl
@[simp] theorem State.argsSent_cmdSent (s : State) : (s.argsSent).cmdSent = false := rfl
@[simp] theorem State.argsSent_blockDue (s : State) : (s.argsSent).blockDue = s.blockDue := rfl
@[simp] theorem State.argsSent_bus (s : State) : (s.argsSent).bus = s.bus := rfl
@[simp] theorem State.argsSent_msgs (s : State) : (s.argsSent).msgs = s.msgs := rfl
@[simp] theorem State.argsSent_rst (s : State) : (s.argsSent).rst = s.rst := rfl
@[simp] theorem State.argsSent_trace (s : State) : (s.argsSent).trace = s.trace := rfl
@[simp] theorem State.argsSent_oldTraces (s : State) : (s.argsSent).oldTraces = s.oldTraces := rfl
@[simp] theorem State.argsSent_pcPastTop (s : State) : (s.argsSent).pcPastTop = s.pcPastTop := rfl
@[simp] theorem State.argsSent_freeCnt (s : State) : (s.argsSent).freeCnt = s.freeCnt := rfl
@[simp] theorem State.argsSent_waitedMs (s : State) : (s.argsSent).waitedMs = s.waitedMs := rfl

/-! ### openXfer -/

@[simp] theorem State.openXfer_pstate (s : State) : (s.openXfer).pstate = s.pstate := rfl
@[simp] theorem State.openXfer_phase (s : State) : (s.openXfer).phase = s.phase := rfl
@[simp] theorem State.openXfer_seqPc (s : State) : (s.openXfer).seqPc = s.seqPc := rfl
@[simp] theorem State.openXfer_seqQ (s : State) : (s.openXfer).seqQ = s.seqQ := rfl
@[simp] theorem State.openXfer_pendPs (s : State) : (s.openXfer).pendPs = s.pendPs := rfl
@[simp] theorem State.openXfer_dlyCnt (s : State) : (s.openXfer).dlyCnt = s.dlyCnt := rfl
@[simp] theorem State.openXfer_xferOpen (s : State) : (s.openXfer).xferOpen = true := rfl
@[simp] theorem State.openXfer_xferSeen (s : State) : (s.openXfer).xferSeen = s.xferSeen := rfl
@[simp] theorem State.openXfer_result (s : State) : (s.openXfer).result = s.result := rfl
@[simp] theorem State.openXfer_done (s : State) : (s.openXfer).done = s.done := rfl
@[simp] theorem State.openXfer_ready (s : State) : (s.openXfer).ready = s.ready := rfl
@[simp] theorem State.openXfer_fault (s : State) : (s.openXfer).fault = s.fault := rfl
@[simp] theorem State.openXfer_faultCause (s : State) : (s.openXfer).faultCause = s.faultCause := rfl
@[simp] theorem State.openXfer_faultPc (s : State) : (s.openXfer).faultPc = s.faultPc := rfl
@[simp] theorem State.openXfer_ramValid (s : State) : (s.openXfer).ramValid = s.ramValid := rfl
@[simp] theorem State.openXfer_mTag (s : State) : (s.openXfer).mTag = s.mTag := rfl
@[simp] theorem State.openXfer_mArg (s : State) : (s.openXfer).mArg = s.mArg := rfl
@[simp] theorem State.openXfer_tX (s : State) : (s.openXfer).tX = s.tX := rfl
@[simp] theorem State.openXfer_tY (s : State) : (s.openXfer).tY = s.tY := rfl
@[simp] theorem State.openXfer_tCnt (s : State) : (s.openXfer).tCnt = s.tCnt := rfl
@[simp] theorem State.openXfer_tPtr (s : State) : (s.openXfer).tPtr = s.tPtr := rfl
@[simp] theorem State.openXfer_row (s : State) : (s.openXfer).row = s.row := rfl
@[simp] theorem State.openXfer_col (s : State) : (s.openXfer).col = s.col := rfl
@[simp] theorem State.openXfer_colEnd (s : State) : (s.openXfer).colEnd = s.colEnd := rfl
@[simp] theorem State.openXfer_blkIdx (s : State) : (s.openXfer).blkIdx = s.blkIdx := rfl
@[simp] theorem State.openXfer_scratch (s : State) : (s.openXfer).scratch = s.scratch := rfl
@[simp] theorem State.openXfer_burst (s : State) : (s.openXfer).burst = s.burst := rfl
@[simp] theorem State.openXfer_cfg (s : State) : (s.openXfer).cfg = s.cfg := rfl
@[simp] theorem State.openXfer_pix (s : State) : (s.openXfer).pix = s.pix := rfl
@[simp] theorem State.openXfer_cmdSent (s : State) : (s.openXfer).cmdSent = s.cmdSent := rfl
@[simp] theorem State.openXfer_blockDue (s : State) : (s.openXfer).blockDue = s.blockDue := rfl
@[simp] theorem State.openXfer_bus (s : State) : (s.openXfer).bus = s.bus := rfl
@[simp] theorem State.openXfer_msgs (s : State) : (s.openXfer).msgs = s.msgs := rfl
@[simp] theorem State.openXfer_rst (s : State) : (s.openXfer).rst = s.rst := rfl
@[simp] theorem State.openXfer_trace (s : State) : (s.openXfer).trace = s.trace := rfl
@[simp] theorem State.openXfer_oldTraces (s : State) : (s.openXfer).oldTraces = s.oldTraces := rfl
@[simp] theorem State.openXfer_pcPastTop (s : State) : (s.openXfer).pcPastTop = s.pcPastTop := rfl
@[simp] theorem State.openXfer_freeCnt (s : State) : (s.openXfer).freeCnt = s.freeCnt := rfl
@[simp] theorem State.openXfer_waitedMs (s : State) : (s.openXfer).waitedMs = s.waitedMs := rfl

/-! ### closeXfer -/

@[simp] theorem State.closeXfer_pstate (s : State) : (s.closeXfer).pstate = s.pstate := rfl
@[simp] theorem State.closeXfer_phase (s : State) : (s.closeXfer).phase = s.phase := rfl
@[simp] theorem State.closeXfer_seqPc (s : State) : (s.closeXfer).seqPc = s.seqPc := rfl
@[simp] theorem State.closeXfer_seqQ (s : State) : (s.closeXfer).seqQ = s.seqQ := rfl
@[simp] theorem State.closeXfer_pendPs (s : State) : (s.closeXfer).pendPs = s.pendPs := rfl
@[simp] theorem State.closeXfer_dlyCnt (s : State) : (s.closeXfer).dlyCnt = s.dlyCnt := rfl
@[simp] theorem State.closeXfer_xferOpen (s : State) : (s.closeXfer).xferOpen = false := rfl
@[simp] theorem State.closeXfer_xferSeen (s : State) : (s.closeXfer).xferSeen = s.xferSeen := rfl
@[simp] theorem State.closeXfer_result (s : State) : (s.closeXfer).result = s.result := rfl
@[simp] theorem State.closeXfer_done (s : State) : (s.closeXfer).done = s.done := rfl
@[simp] theorem State.closeXfer_ready (s : State) : (s.closeXfer).ready = s.ready := rfl
@[simp] theorem State.closeXfer_fault (s : State) : (s.closeXfer).fault = s.fault := rfl
@[simp] theorem State.closeXfer_faultCause (s : State) : (s.closeXfer).faultCause = s.faultCause := rfl
@[simp] theorem State.closeXfer_faultPc (s : State) : (s.closeXfer).faultPc = s.faultPc := rfl
@[simp] theorem State.closeXfer_ramValid (s : State) : (s.closeXfer).ramValid = s.ramValid := rfl
@[simp] theorem State.closeXfer_mTag (s : State) : (s.closeXfer).mTag = s.mTag := rfl
@[simp] theorem State.closeXfer_mArg (s : State) : (s.closeXfer).mArg = s.mArg := rfl
@[simp] theorem State.closeXfer_tX (s : State) : (s.closeXfer).tX = s.tX := rfl
@[simp] theorem State.closeXfer_tY (s : State) : (s.closeXfer).tY = s.tY := rfl
@[simp] theorem State.closeXfer_tCnt (s : State) : (s.closeXfer).tCnt = s.tCnt := rfl
@[simp] theorem State.closeXfer_tPtr (s : State) : (s.closeXfer).tPtr = s.tPtr := rfl
@[simp] theorem State.closeXfer_row (s : State) : (s.closeXfer).row = s.row := rfl
@[simp] theorem State.closeXfer_col (s : State) : (s.closeXfer).col = s.col := rfl
@[simp] theorem State.closeXfer_colEnd (s : State) : (s.closeXfer).colEnd = s.colEnd := rfl
@[simp] theorem State.closeXfer_blkIdx (s : State) : (s.closeXfer).blkIdx = s.blkIdx := rfl
@[simp] theorem State.closeXfer_scratch (s : State) : (s.closeXfer).scratch = s.scratch := rfl
@[simp] theorem State.closeXfer_burst (s : State) : (s.closeXfer).burst = s.burst := rfl
@[simp] theorem State.closeXfer_cfg (s : State) : (s.closeXfer).cfg = s.cfg := rfl
@[simp] theorem State.closeXfer_pix (s : State) : (s.closeXfer).pix = s.pix := rfl
@[simp] theorem State.closeXfer_cmdSent (s : State) : (s.closeXfer).cmdSent = s.cmdSent := rfl
@[simp] theorem State.closeXfer_blockDue (s : State) : (s.closeXfer).blockDue = s.blockDue := rfl
@[simp] theorem State.closeXfer_bus (s : State) : (s.closeXfer).bus = s.bus := rfl
@[simp] theorem State.closeXfer_msgs (s : State) : (s.closeXfer).msgs = s.msgs := rfl
@[simp] theorem State.closeXfer_rst (s : State) : (s.closeXfer).rst = s.rst := rfl
@[simp] theorem State.closeXfer_trace (s : State) : (s.closeXfer).trace = s.trace := rfl
@[simp] theorem State.closeXfer_oldTraces (s : State) : (s.closeXfer).oldTraces = s.oldTraces := rfl
@[simp] theorem State.closeXfer_pcPastTop (s : State) : (s.closeXfer).pcPastTop = s.pcPastTop := rfl
@[simp] theorem State.closeXfer_freeCnt (s : State) : (s.closeXfer).freeCnt = s.freeCnt := rfl
@[simp] theorem State.closeXfer_waitedMs (s : State) : (s.closeXfer).waitedMs = s.waitedMs := rfl

/-! ### markSeen -/

@[simp] theorem State.markSeen_pstate (s : State) : (s.markSeen).pstate = s.pstate := rfl
@[simp] theorem State.markSeen_phase (s : State) : (s.markSeen).phase = s.phase := rfl
@[simp] theorem State.markSeen_seqPc (s : State) : (s.markSeen).seqPc = s.seqPc := rfl
@[simp] theorem State.markSeen_seqQ (s : State) : (s.markSeen).seqQ = s.seqQ := rfl
@[simp] theorem State.markSeen_pendPs (s : State) : (s.markSeen).pendPs = s.pendPs := rfl
@[simp] theorem State.markSeen_dlyCnt (s : State) : (s.markSeen).dlyCnt = s.dlyCnt := rfl
@[simp] theorem State.markSeen_xferOpen (s : State) : (s.markSeen).xferOpen = s.xferOpen := rfl
@[simp] theorem State.markSeen_xferSeen (s : State) : (s.markSeen).xferSeen = true := rfl
@[simp] theorem State.markSeen_result (s : State) : (s.markSeen).result = s.result := rfl
@[simp] theorem State.markSeen_done (s : State) : (s.markSeen).done = s.done := rfl
@[simp] theorem State.markSeen_ready (s : State) : (s.markSeen).ready = s.ready := rfl
@[simp] theorem State.markSeen_fault (s : State) : (s.markSeen).fault = s.fault := rfl
@[simp] theorem State.markSeen_faultCause (s : State) : (s.markSeen).faultCause = s.faultCause := rfl
@[simp] theorem State.markSeen_faultPc (s : State) : (s.markSeen).faultPc = s.faultPc := rfl
@[simp] theorem State.markSeen_ramValid (s : State) : (s.markSeen).ramValid = s.ramValid := rfl
@[simp] theorem State.markSeen_mTag (s : State) : (s.markSeen).mTag = s.mTag := rfl
@[simp] theorem State.markSeen_mArg (s : State) : (s.markSeen).mArg = s.mArg := rfl
@[simp] theorem State.markSeen_tX (s : State) : (s.markSeen).tX = s.tX := rfl
@[simp] theorem State.markSeen_tY (s : State) : (s.markSeen).tY = s.tY := rfl
@[simp] theorem State.markSeen_tCnt (s : State) : (s.markSeen).tCnt = s.tCnt := rfl
@[simp] theorem State.markSeen_tPtr (s : State) : (s.markSeen).tPtr = s.tPtr := rfl
@[simp] theorem State.markSeen_row (s : State) : (s.markSeen).row = s.row := rfl
@[simp] theorem State.markSeen_col (s : State) : (s.markSeen).col = s.col := rfl
@[simp] theorem State.markSeen_colEnd (s : State) : (s.markSeen).colEnd = s.colEnd := rfl
@[simp] theorem State.markSeen_blkIdx (s : State) : (s.markSeen).blkIdx = s.blkIdx := rfl
@[simp] theorem State.markSeen_scratch (s : State) : (s.markSeen).scratch = s.scratch := rfl
@[simp] theorem State.markSeen_burst (s : State) : (s.markSeen).burst = s.burst := rfl
@[simp] theorem State.markSeen_cfg (s : State) : (s.markSeen).cfg = s.cfg := rfl
@[simp] theorem State.markSeen_pix (s : State) : (s.markSeen).pix = s.pix := rfl
@[simp] theorem State.markSeen_cmdSent (s : State) : (s.markSeen).cmdSent = s.cmdSent := rfl
@[simp] theorem State.markSeen_blockDue (s : State) : (s.markSeen).blockDue = s.blockDue := rfl
@[simp] theorem State.markSeen_bus (s : State) : (s.markSeen).bus = s.bus := rfl
@[simp] theorem State.markSeen_msgs (s : State) : (s.markSeen).msgs = s.msgs := rfl
@[simp] theorem State.markSeen_rst (s : State) : (s.markSeen).rst = s.rst := rfl
@[simp] theorem State.markSeen_trace (s : State) : (s.markSeen).trace = s.trace := rfl
@[simp] theorem State.markSeen_oldTraces (s : State) : (s.markSeen).oldTraces = s.oldTraces := rfl
@[simp] theorem State.markSeen_pcPastTop (s : State) : (s.markSeen).pcPastTop = s.pcPastTop := rfl
@[simp] theorem State.markSeen_freeCnt (s : State) : (s.markSeen).freeCnt = s.freeCnt := rfl
@[simp] theorem State.markSeen_waitedMs (s : State) : (s.markSeen).waitedMs = s.waitedMs := rfl

/-! ### loadDelay -/

@[simp] theorem State.loadDelay_pstate (d : Byte) (s : State) : (s.loadDelay d).pstate = s.pstate := rfl
@[simp] theorem State.loadDelay_phase (d : Byte) (s : State) : (s.loadDelay d).phase = if d = 0 then s.phase else .wait := rfl
@[simp] theorem State.loadDelay_seqPc (d : Byte) (s : State) : (s.loadDelay d).seqPc = s.seqPc := rfl
@[simp] theorem State.loadDelay_seqQ (d : Byte) (s : State) : (s.loadDelay d).seqQ = s.seqQ := rfl
@[simp] theorem State.loadDelay_pendPs (d : Byte) (s : State) : (s.loadDelay d).pendPs = s.pendPs := rfl
@[simp] theorem State.loadDelay_dlyCnt (d : Byte) (s : State) : (s.loadDelay d).dlyCnt = d := rfl
@[simp] theorem State.loadDelay_xferOpen (d : Byte) (s : State) : (s.loadDelay d).xferOpen = s.xferOpen := rfl
@[simp] theorem State.loadDelay_xferSeen (d : Byte) (s : State) : (s.loadDelay d).xferSeen = s.xferSeen := rfl
@[simp] theorem State.loadDelay_result (d : Byte) (s : State) : (s.loadDelay d).result = s.result := rfl
@[simp] theorem State.loadDelay_done (d : Byte) (s : State) : (s.loadDelay d).done = s.done := rfl
@[simp] theorem State.loadDelay_ready (d : Byte) (s : State) : (s.loadDelay d).ready = s.ready := rfl
@[simp] theorem State.loadDelay_fault (d : Byte) (s : State) : (s.loadDelay d).fault = s.fault := rfl
@[simp] theorem State.loadDelay_faultCause (d : Byte) (s : State) : (s.loadDelay d).faultCause = s.faultCause := rfl
@[simp] theorem State.loadDelay_faultPc (d : Byte) (s : State) : (s.loadDelay d).faultPc = s.faultPc := rfl
@[simp] theorem State.loadDelay_ramValid (d : Byte) (s : State) : (s.loadDelay d).ramValid = s.ramValid := rfl
@[simp] theorem State.loadDelay_mTag (d : Byte) (s : State) : (s.loadDelay d).mTag = s.mTag := rfl
@[simp] theorem State.loadDelay_mArg (d : Byte) (s : State) : (s.loadDelay d).mArg = s.mArg := rfl
@[simp] theorem State.loadDelay_tX (d : Byte) (s : State) : (s.loadDelay d).tX = s.tX := rfl
@[simp] theorem State.loadDelay_tY (d : Byte) (s : State) : (s.loadDelay d).tY = s.tY := rfl
@[simp] theorem State.loadDelay_tCnt (d : Byte) (s : State) : (s.loadDelay d).tCnt = s.tCnt := rfl
@[simp] theorem State.loadDelay_tPtr (d : Byte) (s : State) : (s.loadDelay d).tPtr = s.tPtr := rfl
@[simp] theorem State.loadDelay_row (d : Byte) (s : State) : (s.loadDelay d).row = s.row := rfl
@[simp] theorem State.loadDelay_col (d : Byte) (s : State) : (s.loadDelay d).col = s.col := rfl
@[simp] theorem State.loadDelay_colEnd (d : Byte) (s : State) : (s.loadDelay d).colEnd = s.colEnd := rfl
@[simp] theorem State.loadDelay_blkIdx (d : Byte) (s : State) : (s.loadDelay d).blkIdx = s.blkIdx := rfl
@[simp] theorem State.loadDelay_scratch (d : Byte) (s : State) : (s.loadDelay d).scratch = s.scratch := rfl
@[simp] theorem State.loadDelay_burst (d : Byte) (s : State) : (s.loadDelay d).burst = s.burst := rfl
@[simp] theorem State.loadDelay_cfg (d : Byte) (s : State) : (s.loadDelay d).cfg = s.cfg := rfl
@[simp] theorem State.loadDelay_pix (d : Byte) (s : State) : (s.loadDelay d).pix = s.pix := rfl
@[simp] theorem State.loadDelay_cmdSent (d : Byte) (s : State) : (s.loadDelay d).cmdSent = s.cmdSent := rfl
@[simp] theorem State.loadDelay_blockDue (d : Byte) (s : State) : (s.loadDelay d).blockDue = s.blockDue := rfl
@[simp] theorem State.loadDelay_bus (d : Byte) (s : State) : (s.loadDelay d).bus = s.bus := rfl
@[simp] theorem State.loadDelay_msgs (d : Byte) (s : State) : (s.loadDelay d).msgs = s.msgs := rfl
@[simp] theorem State.loadDelay_rst (d : Byte) (s : State) : (s.loadDelay d).rst = s.rst := rfl
@[simp] theorem State.loadDelay_trace (d : Byte) (s : State) : (s.loadDelay d).trace = s.trace := rfl
@[simp] theorem State.loadDelay_oldTraces (d : Byte) (s : State) : (s.loadDelay d).oldTraces = s.oldTraces := rfl
@[simp] theorem State.loadDelay_pcPastTop (d : Byte) (s : State) : (s.loadDelay d).pcPastTop = s.pcPastTop := rfl
@[simp] theorem State.loadDelay_freeCnt (d : Byte) (s : State) : (s.loadDelay d).freeCnt = s.freeCnt := rfl
@[simp] theorem State.loadDelay_waitedMs (d : Byte) (s : State) : (s.loadDelay d).waitedMs = s.waitedMs := rfl

/-! ### raiseConfigFault -/

@[simp] theorem State.raiseConfigFault_pstate (c : FaultCause) (pc : Half) (s : State) : (s.raiseConfigFault c pc).pstate = s.pstate := rfl
@[simp] theorem State.raiseConfigFault_phase (c : FaultCause) (pc : Half) (s : State) : (s.raiseConfigFault c pc).phase = .faulted := rfl
@[simp] theorem State.raiseConfigFault_seqPc (c : FaultCause) (pc : Half) (s : State) : (s.raiseConfigFault c pc).seqPc = s.seqPc := rfl
@[simp] theorem State.raiseConfigFault_seqQ (c : FaultCause) (pc : Half) (s : State) : (s.raiseConfigFault c pc).seqQ = s.seqQ := rfl
@[simp] theorem State.raiseConfigFault_pendPs (c : FaultCause) (pc : Half) (s : State) : (s.raiseConfigFault c pc).pendPs = s.pendPs := rfl
@[simp] theorem State.raiseConfigFault_dlyCnt (c : FaultCause) (pc : Half) (s : State) : (s.raiseConfigFault c pc).dlyCnt = s.dlyCnt := rfl
@[simp] theorem State.raiseConfigFault_xferOpen (c : FaultCause) (pc : Half) (s : State) : (s.raiseConfigFault c pc).xferOpen = s.xferOpen := rfl
@[simp] theorem State.raiseConfigFault_xferSeen (c : FaultCause) (pc : Half) (s : State) : (s.raiseConfigFault c pc).xferSeen = s.xferSeen := rfl
@[simp] theorem State.raiseConfigFault_result (c : FaultCause) (pc : Half) (s : State) : (s.raiseConfigFault c pc).result = s.result := rfl
@[simp] theorem State.raiseConfigFault_done (c : FaultCause) (pc : Half) (s : State) : (s.raiseConfigFault c pc).done = s.done := rfl
@[simp] theorem State.raiseConfigFault_ready (c : FaultCause) (pc : Half) (s : State) : (s.raiseConfigFault c pc).ready = s.ready := rfl
@[simp] theorem State.raiseConfigFault_fault (c : FaultCause) (pc : Half) (s : State) : (s.raiseConfigFault c pc).fault = true := rfl
@[simp] theorem State.raiseConfigFault_faultCause (c : FaultCause) (pc : Half) (s : State) : (s.raiseConfigFault c pc).faultCause = c := rfl
@[simp] theorem State.raiseConfigFault_faultPc (c : FaultCause) (pc : Half) (s : State) : (s.raiseConfigFault c pc).faultPc = pc := rfl
@[simp] theorem State.raiseConfigFault_ramValid (c : FaultCause) (pc : Half) (s : State) : (s.raiseConfigFault c pc).ramValid = s.ramValid := rfl
@[simp] theorem State.raiseConfigFault_mTag (c : FaultCause) (pc : Half) (s : State) : (s.raiseConfigFault c pc).mTag = s.mTag := rfl
@[simp] theorem State.raiseConfigFault_mArg (c : FaultCause) (pc : Half) (s : State) : (s.raiseConfigFault c pc).mArg = s.mArg := rfl
@[simp] theorem State.raiseConfigFault_tX (c : FaultCause) (pc : Half) (s : State) : (s.raiseConfigFault c pc).tX = s.tX := rfl
@[simp] theorem State.raiseConfigFault_tY (c : FaultCause) (pc : Half) (s : State) : (s.raiseConfigFault c pc).tY = s.tY := rfl
@[simp] theorem State.raiseConfigFault_tCnt (c : FaultCause) (pc : Half) (s : State) : (s.raiseConfigFault c pc).tCnt = s.tCnt := rfl
@[simp] theorem State.raiseConfigFault_tPtr (c : FaultCause) (pc : Half) (s : State) : (s.raiseConfigFault c pc).tPtr = s.tPtr := rfl
@[simp] theorem State.raiseConfigFault_row (c : FaultCause) (pc : Half) (s : State) : (s.raiseConfigFault c pc).row = s.row := rfl
@[simp] theorem State.raiseConfigFault_col (c : FaultCause) (pc : Half) (s : State) : (s.raiseConfigFault c pc).col = s.col := rfl
@[simp] theorem State.raiseConfigFault_colEnd (c : FaultCause) (pc : Half) (s : State) : (s.raiseConfigFault c pc).colEnd = s.colEnd := rfl
@[simp] theorem State.raiseConfigFault_blkIdx (c : FaultCause) (pc : Half) (s : State) : (s.raiseConfigFault c pc).blkIdx = s.blkIdx := rfl
@[simp] theorem State.raiseConfigFault_scratch (c : FaultCause) (pc : Half) (s : State) : (s.raiseConfigFault c pc).scratch = s.scratch := rfl
@[simp] theorem State.raiseConfigFault_burst (c : FaultCause) (pc : Half) (s : State) : (s.raiseConfigFault c pc).burst = s.burst := rfl
@[simp] theorem State.raiseConfigFault_cfg (c : FaultCause) (pc : Half) (s : State) : (s.raiseConfigFault c pc).cfg = s.cfg := rfl
@[simp] theorem State.raiseConfigFault_pix (c : FaultCause) (pc : Half) (s : State) : (s.raiseConfigFault c pc).pix = s.pix := rfl
@[simp] theorem State.raiseConfigFault_cmdSent (c : FaultCause) (pc : Half) (s : State) : (s.raiseConfigFault c pc).cmdSent = s.cmdSent := rfl
@[simp] theorem State.raiseConfigFault_blockDue (c : FaultCause) (pc : Half) (s : State) : (s.raiseConfigFault c pc).blockDue = s.blockDue := rfl
@[simp] theorem State.raiseConfigFault_bus (c : FaultCause) (pc : Half) (s : State) : (s.raiseConfigFault c pc).bus = s.bus := rfl
@[simp] theorem State.raiseConfigFault_msgs (c : FaultCause) (pc : Half) (s : State) : (s.raiseConfigFault c pc).msgs = s.msgs := rfl
@[simp] theorem State.raiseConfigFault_rst (c : FaultCause) (pc : Half) (s : State) : (s.raiseConfigFault c pc).rst = s.rst := rfl
@[simp] theorem State.raiseConfigFault_trace (c : FaultCause) (pc : Half) (s : State) : (s.raiseConfigFault c pc).trace = s.trace := rfl
@[simp] theorem State.raiseConfigFault_oldTraces (c : FaultCause) (pc : Half) (s : State) : (s.raiseConfigFault c pc).oldTraces = s.oldTraces := rfl
@[simp] theorem State.raiseConfigFault_pcPastTop (c : FaultCause) (pc : Half) (s : State) : (s.raiseConfigFault c pc).pcPastTop = s.pcPastTop := rfl
@[simp] theorem State.raiseConfigFault_freeCnt (c : FaultCause) (pc : Half) (s : State) : (s.raiseConfigFault c pc).freeCnt = s.freeCnt := rfl
@[simp] theorem State.raiseConfigFault_waitedMs (c : FaultCause) (pc : Half) (s : State) : (s.raiseConfigFault c pc).waitedMs = s.waitedMs := rfl

/-! ### runSeq -/

@[simp] theorem State.runSeq_pstate (b : Half) (s : State) : (s.runSeq b).pstate = s.pstate := rfl
@[simp] theorem State.runSeq_phase (b : Half) (s : State) : (s.runSeq b).phase = .seq := rfl
@[simp] theorem State.runSeq_seqPc (b : Half) (s : State) : (s.runSeq b).seqPc = b := rfl
@[simp] theorem State.runSeq_seqQ (b : Half) (s : State) : (s.runSeq b).seqQ = s.seqQ := rfl
@[simp] theorem State.runSeq_pendPs (b : Half) (s : State) : (s.runSeq b).pendPs = s.pendPs := rfl
@[simp] theorem State.runSeq_dlyCnt (b : Half) (s : State) : (s.runSeq b).dlyCnt = s.dlyCnt := rfl
@[simp] theorem State.runSeq_xferOpen (b : Half) (s : State) : (s.runSeq b).xferOpen = s.xferOpen := rfl
@[simp] theorem State.runSeq_xferSeen (b : Half) (s : State) : (s.runSeq b).xferSeen = false := rfl
@[simp] theorem State.runSeq_result (b : Half) (s : State) : (s.runSeq b).result = s.result := rfl
@[simp] theorem State.runSeq_done (b : Half) (s : State) : (s.runSeq b).done = s.done := rfl
@[simp] theorem State.runSeq_ready (b : Half) (s : State) : (s.runSeq b).ready = s.ready := rfl
@[simp] theorem State.runSeq_fault (b : Half) (s : State) : (s.runSeq b).fault = s.fault := rfl
@[simp] theorem State.runSeq_faultCause (b : Half) (s : State) : (s.runSeq b).faultCause = s.faultCause := rfl
@[simp] theorem State.runSeq_faultPc (b : Half) (s : State) : (s.runSeq b).faultPc = s.faultPc := rfl
@[simp] theorem State.runSeq_ramValid (b : Half) (s : State) : (s.runSeq b).ramValid = s.ramValid := rfl
@[simp] theorem State.runSeq_mTag (b : Half) (s : State) : (s.runSeq b).mTag = s.mTag := rfl
@[simp] theorem State.runSeq_mArg (b : Half) (s : State) : (s.runSeq b).mArg = s.mArg := rfl
@[simp] theorem State.runSeq_tX (b : Half) (s : State) : (s.runSeq b).tX = s.tX := rfl
@[simp] theorem State.runSeq_tY (b : Half) (s : State) : (s.runSeq b).tY = s.tY := rfl
@[simp] theorem State.runSeq_tCnt (b : Half) (s : State) : (s.runSeq b).tCnt = s.tCnt := rfl
@[simp] theorem State.runSeq_tPtr (b : Half) (s : State) : (s.runSeq b).tPtr = s.tPtr := rfl
@[simp] theorem State.runSeq_row (b : Half) (s : State) : (s.runSeq b).row = s.row := rfl
@[simp] theorem State.runSeq_col (b : Half) (s : State) : (s.runSeq b).col = s.col := rfl
@[simp] theorem State.runSeq_colEnd (b : Half) (s : State) : (s.runSeq b).colEnd = s.colEnd := rfl
@[simp] theorem State.runSeq_blkIdx (b : Half) (s : State) : (s.runSeq b).blkIdx = s.blkIdx := rfl
@[simp] theorem State.runSeq_scratch (b : Half) (s : State) : (s.runSeq b).scratch = s.scratch := rfl
@[simp] theorem State.runSeq_burst (b : Half) (s : State) : (s.runSeq b).burst = s.burst := rfl
@[simp] theorem State.runSeq_cfg (b : Half) (s : State) : (s.runSeq b).cfg = s.cfg := rfl
@[simp] theorem State.runSeq_pix (b : Half) (s : State) : (s.runSeq b).pix = s.pix := rfl
@[simp] theorem State.runSeq_cmdSent (b : Half) (s : State) : (s.runSeq b).cmdSent = s.cmdSent := rfl
@[simp] theorem State.runSeq_blockDue (b : Half) (s : State) : (s.runSeq b).blockDue = s.blockDue := rfl
@[simp] theorem State.runSeq_bus (b : Half) (s : State) : (s.runSeq b).bus = s.bus := rfl
@[simp] theorem State.runSeq_msgs (b : Half) (s : State) : (s.runSeq b).msgs = s.msgs := rfl
@[simp] theorem State.runSeq_rst (b : Half) (s : State) : (s.runSeq b).rst = s.rst := rfl
@[simp] theorem State.runSeq_trace (b : Half) (s : State) : (s.runSeq b).trace = s.trace := rfl
@[simp] theorem State.runSeq_oldTraces (b : Half) (s : State) : (s.runSeq b).oldTraces = s.oldTraces := rfl
@[simp] theorem State.runSeq_pcPastTop (b : Half) (s : State) : (s.runSeq b).pcPastTop = false := rfl
@[simp] theorem State.runSeq_freeCnt (b : Half) (s : State) : (s.runSeq b).freeCnt = s.freeCnt := rfl
@[simp] theorem State.runSeq_waitedMs (b : Half) (s : State) : (s.runSeq b).waitedMs = s.waitedMs := rfl

/-! ### finish -/

@[simp] theorem State.finish_pstate (r : Bool) (s : State) : (s.finish r).pstate = s.finishPState r := rfl
@[simp] theorem State.finish_phase (r : Bool) (s : State) : (s.finish r).phase = .idle := rfl
@[simp] theorem State.finish_seqPc (r : Bool) (s : State) : (s.finish r).seqPc = s.seqPc := rfl
@[simp] theorem State.finish_seqQ (r : Bool) (s : State) : (s.finish r).seqQ = [] := rfl
@[simp] theorem State.finish_pendPs (r : Bool) (s : State) : (s.finish r).pendPs = none := rfl
@[simp] theorem State.finish_dlyCnt (r : Bool) (s : State) : (s.finish r).dlyCnt = s.dlyCnt := rfl
@[simp] theorem State.finish_xferOpen (r : Bool) (s : State) : (s.finish r).xferOpen = s.xferOpen := rfl
@[simp] theorem State.finish_xferSeen (r : Bool) (s : State) : (s.finish r).xferSeen = s.xferSeen := rfl
@[simp] theorem State.finish_result (r : Bool) (s : State) : (s.finish r).result = r := rfl
@[simp] theorem State.finish_done (r : Bool) (s : State) : (s.finish r).done = true := rfl
@[simp] theorem State.finish_ready (r : Bool) (s : State) : (s.finish r).ready = true := rfl
@[simp] theorem State.finish_fault (r : Bool) (s : State) : (s.finish r).fault = s.fault := rfl
@[simp] theorem State.finish_faultCause (r : Bool) (s : State) : (s.finish r).faultCause = s.faultCause := rfl
@[simp] theorem State.finish_faultPc (r : Bool) (s : State) : (s.finish r).faultPc = s.faultPc := rfl
@[simp] theorem State.finish_ramValid (r : Bool) (s : State) : (s.finish r).ramValid = s.finishRamValid r := rfl
@[simp] theorem State.finish_mTag (r : Bool) (s : State) : (s.finish r).mTag = s.mTag := rfl
@[simp] theorem State.finish_mArg (r : Bool) (s : State) : (s.finish r).mArg = s.mArg := rfl
@[simp] theorem State.finish_tX (r : Bool) (s : State) : (s.finish r).tX = s.tX := rfl
@[simp] theorem State.finish_tY (r : Bool) (s : State) : (s.finish r).tY = s.tY := rfl
@[simp] theorem State.finish_tCnt (r : Bool) (s : State) : (s.finish r).tCnt = s.tCnt := rfl
@[simp] theorem State.finish_tPtr (r : Bool) (s : State) : (s.finish r).tPtr = s.tPtr := rfl
@[simp] theorem State.finish_row (r : Bool) (s : State) : (s.finish r).row = s.row := rfl
@[simp] theorem State.finish_col (r : Bool) (s : State) : (s.finish r).col = s.col := rfl
@[simp] theorem State.finish_colEnd (r : Bool) (s : State) : (s.finish r).colEnd = s.colEnd := rfl
@[simp] theorem State.finish_blkIdx (r : Bool) (s : State) : (s.finish r).blkIdx = s.blkIdx := rfl
@[simp] theorem State.finish_scratch (r : Bool) (s : State) : (s.finish r).scratch = s.scratch := rfl
@[simp] theorem State.finish_burst (r : Bool) (s : State) : (s.finish r).burst = s.burst := rfl
@[simp] theorem State.finish_cfg (r : Bool) (s : State) : (s.finish r).cfg = s.cfg := rfl
@[simp] theorem State.finish_pix (r : Bool) (s : State) : (s.finish r).pix = s.pix := rfl
@[simp] theorem State.finish_cmdSent (r : Bool) (s : State) : (s.finish r).cmdSent = s.cmdSent := rfl
@[simp] theorem State.finish_blockDue (r : Bool) (s : State) : (s.finish r).blockDue = s.blockDue := rfl
@[simp] theorem State.finish_bus (r : Bool) (s : State) : (s.finish r).bus = s.bus := rfl
@[simp] theorem State.finish_msgs (r : Bool) (s : State) : (s.finish r).msgs = s.msgs := rfl
@[simp] theorem State.finish_rst (r : Bool) (s : State) : (s.finish r).rst = s.rst := rfl
@[simp] theorem State.finish_trace (r : Bool) (s : State) : (s.finish r).trace = s.trace := rfl
@[simp] theorem State.finish_oldTraces (r : Bool) (s : State) : (s.finish r).oldTraces = s.oldTraces := rfl
@[simp] theorem State.finish_pcPastTop (r : Bool) (s : State) : (s.finish r).pcPastTop = s.pcPastTop := rfl
@[simp] theorem State.finish_freeCnt (r : Bool) (s : State) : (s.finish r).freeCnt = s.freeCnt := rfl
@[simp] theorem State.finish_waitedMs (r : Bool) (s : State) : (s.finish r).waitedMs = s.waitedMs := rfl

/-! ### accept -/

@[simp] theorem State.accept_pstate (tag arg : Byte) (tile : Tile) (s : State) : (s.accept tag arg tile).pstate = s.pstate := rfl
@[simp] theorem State.accept_phase (tag arg : Byte) (tile : Tile) (s : State) : (s.accept tag arg tile).phase = s.phase := rfl
@[simp] theorem State.accept_seqPc (tag arg : Byte) (tile : Tile) (s : State) : (s.accept tag arg tile).seqPc = s.seqPc := rfl
@[simp] theorem State.accept_seqQ (tag arg : Byte) (tile : Tile) (s : State) : (s.accept tag arg tile).seqQ = [] := rfl
@[simp] theorem State.accept_pendPs (tag arg : Byte) (tile : Tile) (s : State) : (s.accept tag arg tile).pendPs = none := rfl
@[simp] theorem State.accept_dlyCnt (tag arg : Byte) (tile : Tile) (s : State) : (s.accept tag arg tile).dlyCnt = s.dlyCnt := rfl
@[simp] theorem State.accept_xferOpen (tag arg : Byte) (tile : Tile) (s : State) : (s.accept tag arg tile).xferOpen = s.xferOpen := rfl
@[simp] theorem State.accept_xferSeen (tag arg : Byte) (tile : Tile) (s : State) : (s.accept tag arg tile).xferSeen = s.xferSeen := rfl
@[simp] theorem State.accept_result (tag arg : Byte) (tile : Tile) (s : State) : (s.accept tag arg tile).result = s.result := rfl
@[simp] theorem State.accept_done (tag arg : Byte) (tile : Tile) (s : State) : (s.accept tag arg tile).done = false := rfl
@[simp] theorem State.accept_ready (tag arg : Byte) (tile : Tile) (s : State) : (s.accept tag arg tile).ready = false := rfl
@[simp] theorem State.accept_fault (tag arg : Byte) (tile : Tile) (s : State) : (s.accept tag arg tile).fault = s.fault := rfl
@[simp] theorem State.accept_faultCause (tag arg : Byte) (tile : Tile) (s : State) : (s.accept tag arg tile).faultCause = s.faultCause := rfl
@[simp] theorem State.accept_faultPc (tag arg : Byte) (tile : Tile) (s : State) : (s.accept tag arg tile).faultPc = s.faultPc := rfl
@[simp] theorem State.accept_ramValid (tag arg : Byte) (tile : Tile) (s : State) : (s.accept tag arg tile).ramValid = s.ramValid := rfl
@[simp] theorem State.accept_mTag (tag arg : Byte) (tile : Tile) (s : State) : (s.accept tag arg tile).mTag = tag := rfl
@[simp] theorem State.accept_mArg (tag arg : Byte) (tile : Tile) (s : State) : (s.accept tag arg tile).mArg = arg := rfl
@[simp] theorem State.accept_tX (tag arg : Byte) (tile : Tile) (s : State) : (s.accept tag arg tile).tX = tile.x := rfl
@[simp] theorem State.accept_tY (tag arg : Byte) (tile : Tile) (s : State) : (s.accept tag arg tile).tY = tile.y := rfl
@[simp] theorem State.accept_tCnt (tag arg : Byte) (tile : Tile) (s : State) : (s.accept tag arg tile).tCnt = tile.cnt := rfl
@[simp] theorem State.accept_tPtr (tag arg : Byte) (tile : Tile) (s : State) : (s.accept tag arg tile).tPtr = s.cfg.portPtr tile.ptr := rfl
@[simp] theorem State.accept_row (tag arg : Byte) (tile : Tile) (s : State) : (s.accept tag arg tile).row = s.row := rfl
@[simp] theorem State.accept_col (tag arg : Byte) (tile : Tile) (s : State) : (s.accept tag arg tile).col = s.col := rfl
@[simp] theorem State.accept_colEnd (tag arg : Byte) (tile : Tile) (s : State) : (s.accept tag arg tile).colEnd = s.colEnd := rfl
@[simp] theorem State.accept_blkIdx (tag arg : Byte) (tile : Tile) (s : State) : (s.accept tag arg tile).blkIdx = s.blkIdx := rfl
@[simp] theorem State.accept_scratch (tag arg : Byte) (tile : Tile) (s : State) : (s.accept tag arg tile).scratch = s.scratch := rfl
@[simp] theorem State.accept_burst (tag arg : Byte) (tile : Tile) (s : State) : (s.accept tag arg tile).burst = s.burst := rfl
@[simp] theorem State.accept_cfg (tag arg : Byte) (tile : Tile) (s : State) : (s.accept tag arg tile).cfg = s.cfg := rfl
@[simp] theorem State.accept_pix (tag arg : Byte) (tile : Tile) (s : State) : (s.accept tag arg tile).pix = s.pix := rfl
@[simp] theorem State.accept_cmdSent (tag arg : Byte) (tile : Tile) (s : State) : (s.accept tag arg tile).cmdSent = s.cmdSent := rfl
@[simp] theorem State.accept_blockDue (tag arg : Byte) (tile : Tile) (s : State) : (s.accept tag arg tile).blockDue = s.blockDue := rfl
@[simp] theorem State.accept_bus (tag arg : Byte) (tile : Tile) (s : State) : (s.accept tag arg tile).bus = s.bus := rfl
@[simp] theorem State.accept_msgs (tag arg : Byte) (tile : Tile) (s : State) : (s.accept tag arg tile).msgs = s.msgs := rfl
@[simp] theorem State.accept_rst (tag arg : Byte) (tile : Tile) (s : State) : (s.accept tag arg tile).rst = s.rst := rfl
@[simp] theorem State.accept_trace (tag arg : Byte) (tile : Tile) (s : State) : (s.accept tag arg tile).trace = s.trace := rfl
@[simp] theorem State.accept_oldTraces (tag arg : Byte) (tile : Tile) (s : State) : (s.accept tag arg tile).oldTraces = s.oldTraces := rfl
@[simp] theorem State.accept_pcPastTop (tag arg : Byte) (tile : Tile) (s : State) : (s.accept tag arg tile).pcPastTop = s.pcPastTop := rfl
@[simp] theorem State.accept_freeCnt (tag arg : Byte) (tile : Tile) (s : State) : (s.accept tag arg tile).freeCnt = s.freeCnt := rfl
@[simp] theorem State.accept_waitedMs (tag arg : Byte) (tile : Tile) (s : State) : (s.accept tag arg tile).waitedMs = s.waitedMs := rfl

/-! ### computeWindow -/

@[simp] theorem State.computeWindow_pstate (s : State) : (s.computeWindow).pstate = s.pstate := rfl
@[simp] theorem State.computeWindow_phase (s : State) : (s.computeWindow).phase = s.phase := rfl
@[simp] theorem State.computeWindow_seqPc (s : State) : (s.computeWindow).seqPc = s.seqPc := rfl
@[simp] theorem State.computeWindow_seqQ (s : State) : (s.computeWindow).seqQ = s.seqQ := rfl
@[simp] theorem State.computeWindow_pendPs (s : State) : (s.computeWindow).pendPs = s.pendPs := rfl
@[simp] theorem State.computeWindow_dlyCnt (s : State) : (s.computeWindow).dlyCnt = s.dlyCnt := rfl
@[simp] theorem State.computeWindow_xferOpen (s : State) : (s.computeWindow).xferOpen = s.xferOpen := rfl
@[simp] theorem State.computeWindow_xferSeen (s : State) : (s.computeWindow).xferSeen = s.xferSeen := rfl
@[simp] theorem State.computeWindow_result (s : State) : (s.computeWindow).result = s.result := rfl
@[simp] theorem State.computeWindow_done (s : State) : (s.computeWindow).done = s.done := rfl
@[simp] theorem State.computeWindow_ready (s : State) : (s.computeWindow).ready = s.ready := rfl
@[simp] theorem State.computeWindow_fault (s : State) : (s.computeWindow).fault = s.fault := rfl
@[simp] theorem State.computeWindow_faultCause (s : State) : (s.computeWindow).faultCause = s.faultCause := rfl
@[simp] theorem State.computeWindow_faultPc (s : State) : (s.computeWindow).faultPc = s.faultPc := rfl
@[simp] theorem State.computeWindow_ramValid (s : State) : (s.computeWindow).ramValid = s.ramValid := rfl
@[simp] theorem State.computeWindow_mTag (s : State) : (s.computeWindow).mTag = s.mTag := rfl
@[simp] theorem State.computeWindow_mArg (s : State) : (s.computeWindow).mArg = s.mArg := rfl
@[simp] theorem State.computeWindow_tX (s : State) : (s.computeWindow).tX = s.tX := rfl
@[simp] theorem State.computeWindow_tY (s : State) : (s.computeWindow).tY = s.tY := rfl
@[simp] theorem State.computeWindow_tCnt (s : State) : (s.computeWindow).tCnt = s.tCnt := rfl
@[simp] theorem State.computeWindow_tPtr (s : State) : (s.computeWindow).tPtr = s.tPtr := rfl
@[simp] theorem State.computeWindow_row (s : State) : (s.computeWindow).row = windowRow s.cfg s.tY := rfl
@[simp] theorem State.computeWindow_col (s : State) : (s.computeWindow).col = windowCol s.cfg s.tX := rfl
@[simp] theorem State.computeWindow_colEnd (s : State) : (s.computeWindow).colEnd = windowColEnd s.cfg := rfl
@[simp] theorem State.computeWindow_blkIdx (s : State) : (s.computeWindow).blkIdx = s.blkIdx := rfl
@[simp] theorem State.computeWindow_scratch (s : State) : (s.computeWindow).scratch = s.scratch := rfl
@[simp] theorem State.computeWindow_burst (s : State) : (s.computeWindow).burst = s.burst := rfl
@[simp] theorem State.computeWindow_cfg (s : State) : (s.computeWindow).cfg = s.cfg := rfl
@[simp] theorem State.computeWindow_pix (s : State) : (s.computeWindow).pix = s.pix := rfl
@[simp] theorem State.computeWindow_cmdSent (s : State) : (s.computeWindow).cmdSent = s.cmdSent := rfl
@[simp] theorem State.computeWindow_blockDue (s : State) : (s.computeWindow).blockDue = s.blockDue := rfl
@[simp] theorem State.computeWindow_bus (s : State) : (s.computeWindow).bus = s.bus := rfl
@[simp] theorem State.computeWindow_msgs (s : State) : (s.computeWindow).msgs = s.msgs := rfl
@[simp] theorem State.computeWindow_rst (s : State) : (s.computeWindow).rst = s.rst := rfl
@[simp] theorem State.computeWindow_trace (s : State) : (s.computeWindow).trace = s.trace := rfl
@[simp] theorem State.computeWindow_oldTraces (s : State) : (s.computeWindow).oldTraces = s.oldTraces := rfl
@[simp] theorem State.computeWindow_pcPastTop (s : State) : (s.computeWindow).pcPastTop = s.pcPastTop := rfl
@[simp] theorem State.computeWindow_freeCnt (s : State) : (s.computeWindow).freeCnt = s.freeCnt := rfl
@[simp] theorem State.computeWindow_waitedMs (s : State) : (s.computeWindow).waitedMs = s.waitedMs := rfl

/-! ### openWindow -/

@[simp] theorem State.openWindow_pstate (s : State) : (s.openWindow).pstate = s.pstate := rfl
@[simp] theorem State.openWindow_phase (s : State) : (s.openWindow).phase = s.phase := rfl
@[simp] theorem State.openWindow_seqPc (s : State) : (s.openWindow).seqPc = s.seqPc := rfl
@[simp] theorem State.openWindow_seqQ (s : State) : (s.openWindow).seqQ = s.seqQ := rfl
@[simp] theorem State.openWindow_pendPs (s : State) : (s.openWindow).pendPs = s.pendPs := rfl
@[simp] theorem State.openWindow_dlyCnt (s : State) : (s.openWindow).dlyCnt = s.dlyCnt := rfl
@[simp] theorem State.openWindow_xferOpen (s : State) : (s.openWindow).xferOpen = true := rfl
@[simp] theorem State.openWindow_xferSeen (s : State) : (s.openWindow).xferSeen = s.xferSeen := rfl
@[simp] theorem State.openWindow_result (s : State) : (s.openWindow).result = s.result := rfl
@[simp] theorem State.openWindow_done (s : State) : (s.openWindow).done = s.done := rfl
@[simp] theorem State.openWindow_ready (s : State) : (s.openWindow).ready = s.ready := rfl
@[simp] theorem State.openWindow_fault (s : State) : (s.openWindow).fault = s.fault := rfl
@[simp] theorem State.openWindow_faultCause (s : State) : (s.openWindow).faultCause = s.faultCause := rfl
@[simp] theorem State.openWindow_faultPc (s : State) : (s.openWindow).faultPc = s.faultPc := rfl
@[simp] theorem State.openWindow_ramValid (s : State) : (s.openWindow).ramValid = s.ramValid := rfl
@[simp] theorem State.openWindow_mTag (s : State) : (s.openWindow).mTag = s.mTag := rfl
@[simp] theorem State.openWindow_mArg (s : State) : (s.openWindow).mArg = s.mArg := rfl
@[simp] theorem State.openWindow_tX (s : State) : (s.openWindow).tX = s.tX := rfl
@[simp] theorem State.openWindow_tY (s : State) : (s.openWindow).tY = s.tY := rfl
@[simp] theorem State.openWindow_tCnt (s : State) : (s.openWindow).tCnt = s.tCnt := rfl
@[simp] theorem State.openWindow_tPtr (s : State) : (s.openWindow).tPtr = s.tPtr := rfl
@[simp] theorem State.openWindow_row (s : State) : (s.openWindow).row = windowRow s.cfg s.tY := rfl
@[simp] theorem State.openWindow_col (s : State) : (s.openWindow).col = windowCol s.cfg s.tX := rfl
@[simp] theorem State.openWindow_colEnd (s : State) : (s.openWindow).colEnd = windowColEnd s.cfg := rfl
@[simp] theorem State.openWindow_blkIdx (s : State) : (s.openWindow).blkIdx = s.blkIdx := rfl
@[simp] theorem State.openWindow_scratch (s : State) : (s.openWindow).scratch = s.scratch := rfl
@[simp] theorem State.openWindow_burst (s : State) : (s.openWindow).burst = windowBurst s.computeWindow := rfl
@[simp] theorem State.openWindow_cfg (s : State) : (s.openWindow).cfg = s.cfg := rfl
@[simp] theorem State.openWindow_pix (s : State) : (s.openWindow).pix = s.pix := rfl
@[simp] theorem State.openWindow_cmdSent (s : State) : (s.openWindow).cmdSent = s.cmdSent := rfl
@[simp] theorem State.openWindow_blockDue (s : State) : (s.openWindow).blockDue = s.blockDue := rfl
@[simp] theorem State.openWindow_bus (s : State) : (s.openWindow).bus = s.bus := rfl
@[simp] theorem State.openWindow_msgs (s : State) : (s.openWindow).msgs = s.msgs := rfl
@[simp] theorem State.openWindow_rst (s : State) : (s.openWindow).rst = s.rst := rfl
@[simp] theorem State.openWindow_trace (s : State) : (s.openWindow).trace = s.trace := rfl
@[simp] theorem State.openWindow_oldTraces (s : State) : (s.openWindow).oldTraces = s.oldTraces := rfl
@[simp] theorem State.openWindow_pcPastTop (s : State) : (s.openWindow).pcPastTop = s.pcPastTop := rfl
@[simp] theorem State.openWindow_freeCnt (s : State) : (s.openWindow).freeCnt = s.freeCnt := rfl
@[simp] theorem State.openWindow_waitedMs (s : State) : (s.openWindow).waitedMs = s.waitedMs := rfl

/-! ### convertBlock -/

@[simp] theorem State.convertBlock_pstate (input : Block) (s : State) : (s.convertBlock input).pstate = s.pstate := rfl
@[simp] theorem State.convertBlock_phase (input : Block) (s : State) : (s.convertBlock input).phase = s.phase := rfl
@[simp] theorem State.convertBlock_seqPc (input : Block) (s : State) : (s.convertBlock input).seqPc = s.seqPc := rfl
@[simp] theorem State.convertBlock_seqQ (input : Block) (s : State) : (s.convertBlock input).seqQ = s.seqQ := rfl
@[simp] theorem State.convertBlock_pendPs (input : Block) (s : State) : (s.convertBlock input).pendPs = s.pendPs := rfl
@[simp] theorem State.convertBlock_dlyCnt (input : Block) (s : State) : (s.convertBlock input).dlyCnt = s.dlyCnt := rfl
@[simp] theorem State.convertBlock_xferOpen (input : Block) (s : State) : (s.convertBlock input).xferOpen = s.xferOpen := rfl
@[simp] theorem State.convertBlock_xferSeen (input : Block) (s : State) : (s.convertBlock input).xferSeen = s.xferSeen := rfl
@[simp] theorem State.convertBlock_result (input : Block) (s : State) : (s.convertBlock input).result = s.result := rfl
@[simp] theorem State.convertBlock_done (input : Block) (s : State) : (s.convertBlock input).done = s.done := rfl
@[simp] theorem State.convertBlock_ready (input : Block) (s : State) : (s.convertBlock input).ready = s.ready := rfl
@[simp] theorem State.convertBlock_fault (input : Block) (s : State) : (s.convertBlock input).fault = s.fault := rfl
@[simp] theorem State.convertBlock_faultCause (input : Block) (s : State) : (s.convertBlock input).faultCause = s.faultCause := rfl
@[simp] theorem State.convertBlock_faultPc (input : Block) (s : State) : (s.convertBlock input).faultPc = s.faultPc := rfl
@[simp] theorem State.convertBlock_ramValid (input : Block) (s : State) : (s.convertBlock input).ramValid = s.ramValid := rfl
@[simp] theorem State.convertBlock_mTag (input : Block) (s : State) : (s.convertBlock input).mTag = s.mTag := rfl
@[simp] theorem State.convertBlock_mArg (input : Block) (s : State) : (s.convertBlock input).mArg = s.mArg := rfl
@[simp] theorem State.convertBlock_tX (input : Block) (s : State) : (s.convertBlock input).tX = s.tX := rfl
@[simp] theorem State.convertBlock_tY (input : Block) (s : State) : (s.convertBlock input).tY = s.tY := rfl
@[simp] theorem State.convertBlock_tCnt (input : Block) (s : State) : (s.convertBlock input).tCnt = s.tCnt := rfl
@[simp] theorem State.convertBlock_tPtr (input : Block) (s : State) : (s.convertBlock input).tPtr = s.tPtr := rfl
@[simp] theorem State.convertBlock_row (input : Block) (s : State) : (s.convertBlock input).row = s.row := rfl
@[simp] theorem State.convertBlock_col (input : Block) (s : State) : (s.convertBlock input).col = s.col := rfl
@[simp] theorem State.convertBlock_colEnd (input : Block) (s : State) : (s.convertBlock input).colEnd = s.colEnd := rfl
@[simp] theorem State.convertBlock_blkIdx (input : Block) (s : State) : (s.convertBlock input).blkIdx = s.blkIdx := rfl
@[simp] theorem State.convertBlock_scratch (input : Block) (s : State) : (s.convertBlock input).scratch = convert input := rfl
@[simp] theorem State.convertBlock_burst (input : Block) (s : State) : (s.convertBlock input).burst = s.burst := rfl
@[simp] theorem State.convertBlock_cfg (input : Block) (s : State) : (s.convertBlock input).cfg = s.cfg := rfl
@[simp] theorem State.convertBlock_pix (input : Block) (s : State) : (s.convertBlock input).pix = s.pix := rfl
@[simp] theorem State.convertBlock_cmdSent (input : Block) (s : State) : (s.convertBlock input).cmdSent = s.cmdSent := rfl
@[simp] theorem State.convertBlock_blockDue (input : Block) (s : State) : (s.convertBlock input).blockDue = true := rfl
@[simp] theorem State.convertBlock_bus (input : Block) (s : State) : (s.convertBlock input).bus = s.bus := rfl
@[simp] theorem State.convertBlock_msgs (input : Block) (s : State) : (s.convertBlock input).msgs = s.msgs := rfl
@[simp] theorem State.convertBlock_rst (input : Block) (s : State) : (s.convertBlock input).rst = s.rst := rfl
@[simp] theorem State.convertBlock_trace (input : Block) (s : State) : (s.convertBlock input).trace = s.trace := rfl
@[simp] theorem State.convertBlock_oldTraces (input : Block) (s : State) : (s.convertBlock input).oldTraces = s.oldTraces := rfl
@[simp] theorem State.convertBlock_pcPastTop (input : Block) (s : State) : (s.convertBlock input).pcPastTop = s.pcPastTop := rfl
@[simp] theorem State.convertBlock_freeCnt (input : Block) (s : State) : (s.convertBlock input).freeCnt = s.freeCnt := rfl
@[simp] theorem State.convertBlock_waitedMs (input : Block) (s : State) : (s.convertBlock input).waitedMs = s.waitedMs := rfl

/-! ### blockSent -/

@[simp] theorem State.blockSent_pstate (s : State) : (s.blockSent).pstate = s.pstate := rfl
@[simp] theorem State.blockSent_phase (s : State) : (s.blockSent).phase = s.phase := rfl
@[simp] theorem State.blockSent_seqPc (s : State) : (s.blockSent).seqPc = s.seqPc := rfl
@[simp] theorem State.blockSent_seqQ (s : State) : (s.blockSent).seqQ = s.seqQ := rfl
@[simp] theorem State.blockSent_pendPs (s : State) : (s.blockSent).pendPs = s.pendPs := rfl
@[simp] theorem State.blockSent_dlyCnt (s : State) : (s.blockSent).dlyCnt = s.dlyCnt := rfl
@[simp] theorem State.blockSent_xferOpen (s : State) : (s.blockSent).xferOpen = s.xferOpen := rfl
@[simp] theorem State.blockSent_xferSeen (s : State) : (s.blockSent).xferSeen = s.xferSeen := rfl
@[simp] theorem State.blockSent_result (s : State) : (s.blockSent).result = s.result := rfl
@[simp] theorem State.blockSent_done (s : State) : (s.blockSent).done = s.done := rfl
@[simp] theorem State.blockSent_ready (s : State) : (s.blockSent).ready = s.ready := rfl
@[simp] theorem State.blockSent_fault (s : State) : (s.blockSent).fault = s.fault := rfl
@[simp] theorem State.blockSent_faultCause (s : State) : (s.blockSent).faultCause = s.faultCause := rfl
@[simp] theorem State.blockSent_faultPc (s : State) : (s.blockSent).faultPc = s.faultPc := rfl
@[simp] theorem State.blockSent_ramValid (s : State) : (s.blockSent).ramValid = s.ramValid := rfl
@[simp] theorem State.blockSent_mTag (s : State) : (s.blockSent).mTag = s.mTag := rfl
@[simp] theorem State.blockSent_mArg (s : State) : (s.blockSent).mArg = s.mArg := rfl
@[simp] theorem State.blockSent_tX (s : State) : (s.blockSent).tX = s.tX := rfl
@[simp] theorem State.blockSent_tY (s : State) : (s.blockSent).tY = s.tY := rfl
@[simp] theorem State.blockSent_tCnt (s : State) : (s.blockSent).tCnt = s.tCnt := rfl
@[simp] theorem State.blockSent_tPtr (s : State) : (s.blockSent).tPtr = s.tPtr := rfl
@[simp] theorem State.blockSent_row (s : State) : (s.blockSent).row = s.row := rfl
@[simp] theorem State.blockSent_col (s : State) : (s.blockSent).col = s.col := rfl
@[simp] theorem State.blockSent_colEnd (s : State) : (s.blockSent).colEnd = s.colEnd := rfl
@[simp] theorem State.blockSent_blkIdx (s : State) : (s.blockSent).blkIdx = s.blkIdx + 1 := rfl
@[simp] theorem State.blockSent_scratch (s : State) : (s.blockSent).scratch = s.scratch := rfl
@[simp] theorem State.blockSent_burst (s : State) : (s.blockSent).burst = s.burst := rfl
@[simp] theorem State.blockSent_cfg (s : State) : (s.blockSent).cfg = s.cfg := rfl
@[simp] theorem State.blockSent_pix (s : State) : (s.blockSent).pix = s.pix := rfl
@[simp] theorem State.blockSent_cmdSent (s : State) : (s.blockSent).cmdSent = s.cmdSent := rfl
@[simp] theorem State.blockSent_blockDue (s : State) : (s.blockSent).blockDue = false := rfl
@[simp] theorem State.blockSent_bus (s : State) : (s.blockSent).bus = s.bus := rfl
@[simp] theorem State.blockSent_msgs (s : State) : (s.blockSent).msgs = s.msgs := rfl
@[simp] theorem State.blockSent_rst (s : State) : (s.blockSent).rst = s.rst := rfl
@[simp] theorem State.blockSent_trace (s : State) : (s.blockSent).trace = s.trace := rfl
@[simp] theorem State.blockSent_oldTraces (s : State) : (s.blockSent).oldTraces = s.oldTraces := rfl
@[simp] theorem State.blockSent_pcPastTop (s : State) : (s.blockSent).pcPastTop = s.pcPastTop := rfl
@[simp] theorem State.blockSent_freeCnt (s : State) : (s.blockSent).freeCnt = s.freeCnt := rfl
@[simp] theorem State.blockSent_waitedMs (s : State) : (s.blockSent).waitedMs = s.waitedMs := rfl

/-! ### beginData -/

@[simp] theorem State.beginData_pstate (s : State) : (s.beginData).pstate = s.pstate := rfl
@[simp] theorem State.beginData_phase (s : State) : (s.beginData).phase = .drawData := rfl
@[simp] theorem State.beginData_seqPc (s : State) : (s.beginData).seqPc = s.seqPc := rfl
@[simp] theorem State.beginData_seqQ (s : State) : (s.beginData).seqQ = s.seqQ := rfl
@[simp] theorem State.beginData_pendPs (s : State) : (s.beginData).pendPs = s.pendPs := rfl
@[simp] theorem State.beginData_dlyCnt (s : State) : (s.beginData).dlyCnt = s.dlyCnt := rfl
@[simp] theorem State.beginData_xferOpen (s : State) : (s.beginData).xferOpen = s.xferOpen := rfl
@[simp] theorem State.beginData_xferSeen (s : State) : (s.beginData).xferSeen = s.xferSeen := rfl
@[simp] theorem State.beginData_result (s : State) : (s.beginData).result = s.result := rfl
@[simp] theorem State.beginData_done (s : State) : (s.beginData).done = s.done := rfl
@[simp] theorem State.beginData_ready (s : State) : (s.beginData).ready = s.ready := rfl
@[simp] theorem State.beginData_fault (s : State) : (s.beginData).fault = s.fault := rfl
@[simp] theorem State.beginData_faultCause (s : State) : (s.beginData).faultCause = s.faultCause := rfl
@[simp] theorem State.beginData_faultPc (s : State) : (s.beginData).faultPc = s.faultPc := rfl
@[simp] theorem State.beginData_ramValid (s : State) : (s.beginData).ramValid = s.ramValid := rfl
@[simp] theorem State.beginData_mTag (s : State) : (s.beginData).mTag = s.mTag := rfl
@[simp] theorem State.beginData_mArg (s : State) : (s.beginData).mArg = s.mArg := rfl
@[simp] theorem State.beginData_tX (s : State) : (s.beginData).tX = s.tX := rfl
@[simp] theorem State.beginData_tY (s : State) : (s.beginData).tY = s.tY := rfl
@[simp] theorem State.beginData_tCnt (s : State) : (s.beginData).tCnt = s.tCnt := rfl
@[simp] theorem State.beginData_tPtr (s : State) : (s.beginData).tPtr = s.tPtr := rfl
@[simp] theorem State.beginData_row (s : State) : (s.beginData).row = s.row := rfl
@[simp] theorem State.beginData_col (s : State) : (s.beginData).col = s.col := rfl
@[simp] theorem State.beginData_colEnd (s : State) : (s.beginData).colEnd = s.colEnd := rfl
@[simp] theorem State.beginData_blkIdx (s : State) : (s.beginData).blkIdx = 0 := rfl
@[simp] theorem State.beginData_scratch (s : State) : (s.beginData).scratch = s.scratch := rfl
@[simp] theorem State.beginData_burst (s : State) : (s.beginData).burst = s.burst := rfl
@[simp] theorem State.beginData_cfg (s : State) : (s.beginData).cfg = s.cfg := rfl
@[simp] theorem State.beginData_pix (s : State) : (s.beginData).pix = s.pix := rfl
@[simp] theorem State.beginData_cmdSent (s : State) : (s.beginData).cmdSent = s.cmdSent := rfl
@[simp] theorem State.beginData_blockDue (s : State) : (s.beginData).blockDue = s.blockDue := rfl
@[simp] theorem State.beginData_bus (s : State) : (s.beginData).bus = s.bus := rfl
@[simp] theorem State.beginData_msgs (s : State) : (s.beginData).msgs = s.msgs := rfl
@[simp] theorem State.beginData_rst (s : State) : (s.beginData).rst = s.rst := rfl
@[simp] theorem State.beginData_trace (s : State) : (s.beginData).trace = s.trace := rfl
@[simp] theorem State.beginData_oldTraces (s : State) : (s.beginData).oldTraces = s.oldTraces := rfl
@[simp] theorem State.beginData_pcPastTop (s : State) : (s.beginData).pcPastTop = s.pcPastTop := rfl
@[simp] theorem State.beginData_freeCnt (s : State) : (s.beginData).freeCnt = s.freeCnt := rfl
@[simp] theorem State.beginData_waitedMs (s : State) : (s.beginData).waitedMs = s.waitedMs := rfl

/-! ### advance -/

@[simp] theorem State.advance_pstate (n : Nat) (s : State) : (s.advance n).pstate = s.pstate := by
  unfold State.advance; split <;> rfl
@[simp] theorem State.advance_phase (n : Nat) (s : State) : (s.advance n).phase = s.phase := by
  unfold State.advance; split <;> rfl
@[simp] theorem State.advance_seqQ (n : Nat) (s : State) : (s.advance n).seqQ = s.seqQ := by
  unfold State.advance; split <;> rfl
@[simp] theorem State.advance_pendPs (n : Nat) (s : State) : (s.advance n).pendPs = s.pendPs := by
  unfold State.advance; split <;> rfl
@[simp] theorem State.advance_dlyCnt (n : Nat) (s : State) : (s.advance n).dlyCnt = s.dlyCnt := by
  unfold State.advance; split <;> rfl
@[simp] theorem State.advance_xferOpen (n : Nat) (s : State) : (s.advance n).xferOpen = s.xferOpen := by
  unfold State.advance; split <;> rfl
@[simp] theorem State.advance_xferSeen (n : Nat) (s : State) : (s.advance n).xferSeen = s.xferSeen := by
  unfold State.advance; split <;> rfl
@[simp] theorem State.advance_result (n : Nat) (s : State) : (s.advance n).result = s.result := by
  unfold State.advance; split <;> rfl
@[simp] theorem State.advance_done (n : Nat) (s : State) : (s.advance n).done = s.done := by
  unfold State.advance; split <;> rfl
@[simp] theorem State.advance_ready (n : Nat) (s : State) : (s.advance n).ready = s.ready := by
  unfold State.advance; split <;> rfl
@[simp] theorem State.advance_fault (n : Nat) (s : State) : (s.advance n).fault = s.fault := by
  unfold State.advance; split <;> rfl
@[simp] theorem State.advance_faultCause (n : Nat) (s : State) : (s.advance n).faultCause = s.faultCause := by
  unfold State.advance; split <;> rfl
@[simp] theorem State.advance_faultPc (n : Nat) (s : State) : (s.advance n).faultPc = s.faultPc := by
  unfold State.advance; split <;> rfl
@[simp] theorem State.advance_ramValid (n : Nat) (s : State) : (s.advance n).ramValid = s.ramValid := by
  unfold State.advance; split <;> rfl
@[simp] theorem State.advance_mTag (n : Nat) (s : State) : (s.advance n).mTag = s.mTag := by
  unfold State.advance; split <;> rfl
@[simp] theorem State.advance_mArg (n : Nat) (s : State) : (s.advance n).mArg = s.mArg := by
  unfold State.advance; split <;> rfl
@[simp] theorem State.advance_tX (n : Nat) (s : State) : (s.advance n).tX = s.tX := by
  unfold State.advance; split <;> rfl
@[simp] theorem State.advance_tY (n : Nat) (s : State) : (s.advance n).tY = s.tY := by
  unfold State.advance; split <;> rfl
@[simp] theorem State.advance_tCnt (n : Nat) (s : State) : (s.advance n).tCnt = s.tCnt := by
  unfold State.advance; split <;> rfl
@[simp] theorem State.advance_tPtr (n : Nat) (s : State) : (s.advance n).tPtr = s.tPtr := by
  unfold State.advance; split <;> rfl
@[simp] theorem State.advance_row (n : Nat) (s : State) : (s.advance n).row = s.row := by
  unfold State.advance; split <;> rfl
@[simp] theorem State.advance_col (n : Nat) (s : State) : (s.advance n).col = s.col := by
  unfold State.advance; split <;> rfl
@[simp] theorem State.advance_colEnd (n : Nat) (s : State) : (s.advance n).colEnd = s.colEnd := by
  unfold State.advance; split <;> rfl
@[simp] theorem State.advance_blkIdx (n : Nat) (s : State) : (s.advance n).blkIdx = s.blkIdx := by
  unfold State.advance; split <;> rfl
@[simp] theorem State.advance_scratch (n : Nat) (s : State) : (s.advance n).scratch = s.scratch := by
  unfold State.advance; split <;> rfl
@[simp] theorem State.advance_burst (n : Nat) (s : State) : (s.advance n).burst = s.burst := by
  unfold State.advance; split <;> rfl
@[simp] theorem State.advance_cfg (n : Nat) (s : State) : (s.advance n).cfg = s.cfg := by
  unfold State.advance; split <;> rfl
@[simp] theorem State.advance_pix (n : Nat) (s : State) : (s.advance n).pix = s.pix := by
  unfold State.advance; split <;> rfl
@[simp] theorem State.advance_cmdSent (n : Nat) (s : State) : (s.advance n).cmdSent = s.cmdSent := by
  unfold State.advance; split <;> rfl
@[simp] theorem State.advance_blockDue (n : Nat) (s : State) : (s.advance n).blockDue = s.blockDue := by
  unfold State.advance; split <;> rfl
@[simp] theorem State.advance_bus (n : Nat) (s : State) : (s.advance n).bus = s.bus := by
  unfold State.advance; split <;> rfl
@[simp] theorem State.advance_msgs (n : Nat) (s : State) : (s.advance n).msgs = s.msgs := by
  unfold State.advance; split <;> rfl
@[simp] theorem State.advance_rst (n : Nat) (s : State) : (s.advance n).rst = s.rst := by
  unfold State.advance; split <;> rfl
@[simp] theorem State.advance_trace (n : Nat) (s : State) : (s.advance n).trace = s.trace := by
  unfold State.advance; split <;> rfl
@[simp] theorem State.advance_oldTraces (n : Nat) (s : State) : (s.advance n).oldTraces = s.oldTraces := by
  unfold State.advance; split <;> rfl
@[simp] theorem State.advance_waitedMs (n : Nat) (s : State) : (s.advance n).waitedMs = s.waitedMs := by
  unfold State.advance; split <;> rfl

end Sys2Proof.Machine
end

