-- ==== Sys2Proof/Laws/Shapes.lean ====
section
/-!
SUPPORT. One lemma a field for the shapes of a next state that Safety.lean writes out, and for the beginning of DrawTile.
-/
namespace Sys2Proof.Machine

/-! ### configFaulted -/

@[simp] theorem configFaulted_pstate (c : FaultCause) (s : State) : (configFaulted c s).pstate = s.pstate := rfl
@[simp] theorem configFaulted_phase (c : FaultCause) (s : State) : (configFaulted c s).phase = .faulted := rfl
@[simp] theorem configFaulted_seqPc (c : FaultCause) (s : State) : (configFaulted c s).seqPc = s.seqPc := rfl
@[simp] theorem configFaulted_seqQ (c : FaultCause) (s : State) : (configFaulted c s).seqQ = s.seqQ := rfl
@[simp] theorem configFaulted_pendPs (c : FaultCause) (s : State) : (configFaulted c s).pendPs = s.pendPs := rfl
@[simp] theorem configFaulted_dlyCnt (c : FaultCause) (s : State) : (configFaulted c s).dlyCnt = s.dlyCnt := rfl
@[simp] theorem configFaulted_xferOpen (c : FaultCause) (s : State) : (configFaulted c s).xferOpen = s.xferOpen := rfl
@[simp] theorem configFaulted_xferSeen (c : FaultCause) (s : State) : (configFaulted c s).xferSeen = s.xferSeen := rfl
@[simp] theorem configFaulted_result (c : FaultCause) (s : State) : (configFaulted c s).result = s.result := rfl
@[simp] theorem configFaulted_done (c : FaultCause) (s : State) : (configFaulted c s).done = s.done := rfl
@[simp] theorem configFaulted_ready (c : FaultCause) (s : State) : (configFaulted c s).ready = s.ready := rfl
@[simp] theorem configFaulted_fault (c : FaultCause) (s : State) : (configFaulted c s).fault = true := rfl
@[simp] theorem configFaulted_faultCause (c : FaultCause) (s : State) : (configFaulted c s).faultCause = c := rfl
@[simp] theorem configFaulted_faultPc (c : FaultCause) (s : State) : (configFaulted c s).faultPc = s.seqPc := rfl
@[simp] theorem configFaulted_ramValid (c : FaultCause) (s : State) : (configFaulted c s).ramValid = s.ramValid := rfl
@[simp] theorem configFaulted_mTag (c : FaultCause) (s : State) : (configFaulted c s).mTag = s.mTag := rfl
@[simp] theorem configFaulted_mArg (c : FaultCause) (s : State) : (configFaulted c s).mArg = s.mArg := rfl
@[simp] theorem configFaulted_tX (c : FaultCause) (s : State) : (configFaulted c s).tX = s.tX := rfl
@[simp] theorem configFaulted_tY (c : FaultCause) (s : State) : (configFaulted c s).tY = s.tY := rfl
@[simp] theorem configFaulted_tCnt (c : FaultCause) (s : State) : (configFaulted c s).tCnt = s.tCnt := rfl
@[simp] theorem configFaulted_tPtr (c : FaultCause) (s : State) : (configFaulted c s).tPtr = s.tPtr := rfl
@[simp] theorem configFaulted_row (c : FaultCause) (s : State) : (configFaulted c s).row = s.row := rfl
@[simp] theorem configFaulted_col (c : FaultCause) (s : State) : (configFaulted c s).col = s.col := rfl
@[simp] theorem configFaulted_colEnd (c : FaultCause) (s : State) : (configFaulted c s).colEnd = s.colEnd := rfl
@[simp] theorem configFaulted_blkIdx (c : FaultCause) (s : State) : (configFaulted c s).blkIdx = s.blkIdx := rfl
@[simp] theorem configFaulted_scratch (c : FaultCause) (s : State) : (configFaulted c s).scratch = s.scratch := rfl
@[simp] theorem configFaulted_burst (c : FaultCause) (s : State) : (configFaulted c s).burst = s.burst := rfl
@[simp] theorem configFaulted_cfg (c : FaultCause) (s : State) : (configFaulted c s).cfg = s.cfg := rfl
@[simp] theorem configFaulted_pix (c : FaultCause) (s : State) : (configFaulted c s).pix = s.pix := rfl
@[simp] theorem configFaulted_cmdSent (c : FaultCause) (s : State) : (configFaulted c s).cmdSent = s.cmdSent := rfl
@[simp] theorem configFaulted_blockDue (c : FaultCause) (s : State) : (configFaulted c s).blockDue = s.blockDue := rfl
@[simp] theorem configFaulted_bus (c : FaultCause) (s : State) : (configFaulted c s).bus = s.bus := rfl
@[simp] theorem configFaulted_msgs (c : FaultCause) (s : State) : (configFaulted c s).msgs = s.msgs := rfl
@[simp] theorem configFaulted_rst (c : FaultCause) (s : State) : (configFaulted c s).rst = s.rst := rfl
@[simp] theorem configFaulted_trace (c : FaultCause) (s : State) : (configFaulted c s).trace = s.trace := rfl
@[simp] theorem configFaulted_oldTraces (c : FaultCause) (s : State) : (configFaulted c s).oldTraces = s.oldTraces := rfl
@[simp] theorem configFaulted_pcPastTop (c : FaultCause) (s : State) : (configFaulted c s).pcPastTop = s.pcPastTop := rfl
@[simp] theorem configFaulted_freeCnt (c : FaultCause) (s : State) : (configFaulted c s).freeCnt = s.freeCnt := rfl
@[simp] theorem configFaulted_waitedMs (c : FaultCause) (s : State) : (configFaulted c s).waitedMs = s.waitedMs := rfl

/-! ### sequenceStarted -/

@[simp] theorem sequenceStarted_pstate (b : Half) (s : State) : (sequenceStarted b s).pstate = s.pstate := rfl
@[simp] theorem sequenceStarted_phase (b : Half) (s : State) : (sequenceStarted b s).phase = .seq := rfl
@[simp] theorem sequenceStarted_seqPc (b : Half) (s : State) : (sequenceStarted b s).seqPc = b := rfl
@[simp] theorem sequenceStarted_seqQ (b : Half) (s : State) : (sequenceStarted b s).seqQ = s.seqQ := rfl
@[simp] theorem sequenceStarted_pendPs (b : Half) (s : State) : (sequenceStarted b s).pendPs = s.pendPs := rfl
@[simp] theorem sequenceStarted_dlyCnt (b : Half) (s : State) : (sequenceStarted b s).dlyCnt = s.dlyCnt := rfl
@[simp] theorem sequenceStarted_xferOpen (b : Half) (s : State) : (sequenceStarted b s).xferOpen = s.xferOpen := rfl
@[simp] theorem sequenceStarted_xferSeen (b : Half) (s : State) : (sequenceStarted b s).xferSeen = false := rfl
@[simp] theorem sequenceStarted_result (b : Half) (s : State) : (sequenceStarted b s).result = s.result := rfl
@[simp] theorem sequenceStarted_done (b : Half) (s : State) : (sequenceStarted b s).done = s.done := rfl
@[simp] theorem sequenceStarted_ready (b : Half) (s : State) : (sequenceStarted b s).ready = s.ready := rfl
@[simp] theorem sequenceStarted_fault (b : Half) (s : State) : (sequenceStarted b s).fault = s.fault := rfl
@[simp] theorem sequenceStarted_faultCause (b : Half) (s : State) : (sequenceStarted b s).faultCause = s.faultCause := rfl
@[simp] theorem sequenceStarted_faultPc (b : Half) (s : State) : (sequenceStarted b s).faultPc = s.faultPc := rfl
@[simp] theorem sequenceStarted_ramValid (b : Half) (s : State) : (sequenceStarted b s).ramValid = s.ramValid := rfl
@[simp] theorem sequenceStarted_mTag (b : Half) (s : State) : (sequenceStarted b s).mTag = s.mTag := rfl
@[simp] theorem sequenceStarted_mArg (b : Half) (s : State) : (sequenceStarted b s).mArg = s.mArg := rfl
@[simp] theorem sequenceStarted_tX (b : Half) (s : State) : (sequenceStarted b s).tX = s.tX := rfl
@[simp] theorem sequenceStarted_tY (b : Half) (s : State) : (sequenceStarted b s).tY = s.tY := rfl
@[simp] theorem sequenceStarted_tCnt (b : Half) (s : State) : (sequenceStarted b s).tCnt = s.tCnt := rfl
@[simp] theorem sequenceStarted_tPtr (b : Half) (s : State) : (sequenceStarted b s).tPtr = s.tPtr := rfl
@[simp] theorem sequenceStarted_row (b : Half) (s : State) : (sequenceStarted b s).row = s.row := rfl
@[simp] theorem sequenceStarted_col (b : Half) (s : State) : (sequenceStarted b s).col = s.col := rfl
@[simp] theorem sequenceStarted_colEnd (b : Half) (s : State) : (sequenceStarted b s).colEnd = s.colEnd := rfl
@[simp] theorem sequenceStarted_blkIdx (b : Half) (s : State) : (sequenceStarted b s).blkIdx = s.blkIdx := rfl
@[simp] theorem sequenceStarted_scratch (b : Half) (s : State) : (sequenceStarted b s).scratch = s.scratch := rfl
@[simp] theorem sequenceStarted_burst (b : Half) (s : State) : (sequenceStarted b s).burst = s.burst := rfl
@[simp] theorem sequenceStarted_cfg (b : Half) (s : State) : (sequenceStarted b s).cfg = s.cfg := rfl
@[simp] theorem sequenceStarted_pix (b : Half) (s : State) : (sequenceStarted b s).pix = s.pix := rfl
@[simp] theorem sequenceStarted_cmdSent (b : Half) (s : State) : (sequenceStarted b s).cmdSent = s.cmdSent := rfl
@[simp] theorem sequenceStarted_blockDue (b : Half) (s : State) : (sequenceStarted b s).blockDue = s.blockDue := rfl
@[simp] theorem sequenceStarted_bus (b : Half) (s : State) : (sequenceStarted b s).bus = s.bus := rfl
@[simp] theorem sequenceStarted_msgs (b : Half) (s : State) : (sequenceStarted b s).msgs = s.msgs := rfl
@[simp] theorem sequenceStarted_rst (b : Half) (s : State) : (sequenceStarted b s).rst = s.rst := rfl
@[simp] theorem sequenceStarted_trace (b : Half) (s : State) : (sequenceStarted b s).trace = s.trace := rfl
@[simp] theorem sequenceStarted_oldTraces (b : Half) (s : State) : (sequenceStarted b s).oldTraces = s.oldTraces := rfl
@[simp] theorem sequenceStarted_pcPastTop (b : Half) (s : State) : (sequenceStarted b s).pcPastTop = false := rfl
@[simp] theorem sequenceStarted_freeCnt (b : Half) (s : State) : (sequenceStarted b s).freeCnt = s.freeCnt := rfl
@[simp] theorem sequenceStarted_waitedMs (b : Half) (s : State) : (sequenceStarted b s).waitedMs = s.waitedMs := rfl

/-! ### messageEnded -/

@[simp] theorem messageEnded_pstate (r : Bool) (s : State) : (messageEnded r s).pstate = s.pstate := rfl
@[simp] theorem messageEnded_phase (r : Bool) (s : State) : (messageEnded r s).phase = .idle := rfl
@[simp] theorem messageEnded_seqPc (r : Bool) (s : State) : (messageEnded r s).seqPc = s.seqPc := rfl
@[simp] theorem messageEnded_seqQ (r : Bool) (s : State) : (messageEnded r s).seqQ = [] := rfl
@[simp] theorem messageEnded_pendPs (r : Bool) (s : State) : (messageEnded r s).pendPs = none := rfl
@[simp] theorem messageEnded_dlyCnt (r : Bool) (s : State) : (messageEnded r s).dlyCnt = s.dlyCnt := rfl
@[simp] theorem messageEnded_xferOpen (r : Bool) (s : State) : (messageEnded r s).xferOpen = s.xferOpen := rfl
@[simp] theorem messageEnded_xferSeen (r : Bool) (s : State) : (messageEnded r s).xferSeen = s.xferSeen := rfl
@[simp] theorem messageEnded_result (r : Bool) (s : State) : (messageEnded r s).result = r := rfl
@[simp] theorem messageEnded_done (r : Bool) (s : State) : (messageEnded r s).done = true := rfl
@[simp] theorem messageEnded_ready (r : Bool) (s : State) : (messageEnded r s).ready = true := rfl
@[simp] theorem messageEnded_fault (r : Bool) (s : State) : (messageEnded r s).fault = s.fault := rfl
@[simp] theorem messageEnded_faultCause (r : Bool) (s : State) : (messageEnded r s).faultCause = s.faultCause := rfl
@[simp] theorem messageEnded_faultPc (r : Bool) (s : State) : (messageEnded r s).faultPc = s.faultPc := rfl
@[simp] theorem messageEnded_ramValid (r : Bool) (s : State) : (messageEnded r s).ramValid = s.ramValid := rfl
@[simp] theorem messageEnded_mTag (r : Bool) (s : State) : (messageEnded r s).mTag = s.mTag := rfl
@[simp] theorem messageEnded_mArg (r : Bool) (s : State) : (messageEnded r s).mArg = s.mArg := rfl
@[simp] theorem messageEnded_tX (r : Bool) (s : State) : (messageEnded r s).tX = s.tX := rfl
@[simp] theorem messageEnded_tY (r : Bool) (s : State) : (messageEnded r s).tY = s.tY := rfl
@[simp] theorem messageEnded_tCnt (r : Bool) (s : State) : (messageEnded r s).tCnt = s.tCnt := rfl
@[simp] theorem messageEnded_tPtr (r : Bool) (s : State) : (messageEnded r s).tPtr = s.tPtr := rfl
@[simp] theorem messageEnded_row (r : Bool) (s : State) : (messageEnded r s).row = s.row := rfl
@[simp] theorem messageEnded_col (r : Bool) (s : State) : (messageEnded r s).col = s.col := rfl
@[simp] theorem messageEnded_colEnd (r : Bool) (s : State) : (messageEnded r s).colEnd = s.colEnd := rfl
@[simp] theorem messageEnded_blkIdx (r : Bool) (s : State) : (messageEnded r s).blkIdx = s.blkIdx := rfl
@[simp] theorem messageEnded_scratch (r : Bool) (s : State) : (messageEnded r s).scratch = s.scratch := rfl
@[simp] theorem messageEnded_burst (r : Bool) (s : State) : (messageEnded r s).burst = s.burst := rfl
@[simp] theorem messageEnded_cfg (r : Bool) (s : State) : (messageEnded r s).cfg = s.cfg := rfl
@[simp] theorem messageEnded_pix (r : Bool) (s : State) : (messageEnded r s).pix = s.pix := rfl
@[simp] theorem messageEnded_cmdSent (r : Bool) (s : State) : (messageEnded r s).cmdSent = s.cmdSent := rfl
@[simp] theorem messageEnded_blockDue (r : Bool) (s : State) : (messageEnded r s).blockDue = s.blockDue := rfl
@[simp] theorem messageEnded_bus (r : Bool) (s : State) : (messageEnded r s).bus = s.bus := rfl
@[simp] theorem messageEnded_msgs (r : Bool) (s : State) : (messageEnded r s).msgs = s.msgs := rfl
@[simp] theorem messageEnded_rst (r : Bool) (s : State) : (messageEnded r s).rst = s.rst := rfl
@[simp] theorem messageEnded_trace (r : Bool) (s : State) : (messageEnded r s).trace = s.trace := rfl
@[simp] theorem messageEnded_oldTraces (r : Bool) (s : State) : (messageEnded r s).oldTraces = s.oldTraces := rfl
@[simp] theorem messageEnded_pcPastTop (r : Bool) (s : State) : (messageEnded r s).pcPastTop = s.pcPastTop := rfl
@[simp] theorem messageEnded_freeCnt (r : Bool) (s : State) : (messageEnded r s).freeCnt = s.freeCnt := rfl
@[simp] theorem messageEnded_waitedMs (r : Bool) (s : State) : (messageEnded r s).waitedMs = s.waitedMs := rfl

/-! ### latched -/

@[simp] theorem latched_pstate (tag arg : Byte) (tile : Tile) (s : State) : (latched tag arg tile s).pstate = s.pstate := rfl
@[simp] theorem latched_phase (tag arg : Byte) (tile : Tile) (s : State) : (latched tag arg tile s).phase = s.phase := rfl
@[simp] theorem latched_seqPc (tag arg : Byte) (tile : Tile) (s : State) : (latched tag arg tile s).seqPc = s.seqPc := rfl
@[simp] theorem latched_seqQ (tag arg : Byte) (tile : Tile) (s : State) : (latched tag arg tile s).seqQ = [] := rfl
@[simp] theorem latched_pendPs (tag arg : Byte) (tile : Tile) (s : State) : (latched tag arg tile s).pendPs = none := rfl
@[simp] theorem latched_dlyCnt (tag arg : Byte) (tile : Tile) (s : State) : (latched tag arg tile s).dlyCnt = s.dlyCnt := rfl
@[simp] theorem latched_xferOpen (tag arg : Byte) (tile : Tile) (s : State) : (latched tag arg tile s).xferOpen = s.xferOpen := rfl
@[simp] theorem latched_xferSeen (tag arg : Byte) (tile : Tile) (s : State) : (latched tag arg tile s).xferSeen = s.xferSeen := rfl
@[simp] theorem latched_result (tag arg : Byte) (tile : Tile) (s : State) : (latched tag arg tile s).result = s.result := rfl
@[simp] theorem latched_done (tag arg : Byte) (tile : Tile) (s : State) : (latched tag arg tile s).done = false := rfl
@[simp] theorem latched_ready (tag arg : Byte) (tile : Tile) (s : State) : (latched tag arg tile s).ready = false := rfl
@[simp] theorem latched_fault (tag arg : Byte) (tile : Tile) (s : State) : (latched tag arg tile s).fault = s.fault := rfl
@[simp] theorem latched_faultCause (tag arg : Byte) (tile : Tile) (s : State) : (latched tag arg tile s).faultCause = s.faultCause := rfl
@[simp] theorem latched_faultPc (tag arg : Byte) (tile : Tile) (s : State) : (latched tag arg tile s).faultPc = s.faultPc := rfl
@[simp] theorem latched_ramValid (tag arg : Byte) (tile : Tile) (s : State) : (latched tag arg tile s).ramValid = s.ramValid := rfl
@[simp] theorem latched_mTag (tag arg : Byte) (tile : Tile) (s : State) : (latched tag arg tile s).mTag = tag := rfl
@[simp] theorem latched_mArg (tag arg : Byte) (tile : Tile) (s : State) : (latched tag arg tile s).mArg = arg := rfl
@[simp] theorem latched_tX (tag arg : Byte) (tile : Tile) (s : State) : (latched tag arg tile s).tX = tile.x := rfl
@[simp] theorem latched_tY (tag arg : Byte) (tile : Tile) (s : State) : (latched tag arg tile s).tY = tile.y := rfl
@[simp] theorem latched_tCnt (tag arg : Byte) (tile : Tile) (s : State) : (latched tag arg tile s).tCnt = tile.cnt := rfl
@[simp] theorem latched_tPtr (tag arg : Byte) (tile : Tile) (s : State) : (latched tag arg tile s).tPtr = tile.ptr % 2 ^ s.cfg.paWidth := rfl
@[simp] theorem latched_row (tag arg : Byte) (tile : Tile) (s : State) : (latched tag arg tile s).row = s.row := rfl
@[simp] theorem latched_col (tag arg : Byte) (tile : Tile) (s : State) : (latched tag arg tile s).col = s.col := rfl
@[simp] theorem latched_colEnd (tag arg : Byte) (tile : Tile) (s : State) : (latched tag arg tile s).colEnd = s.colEnd := rfl
@[simp] theorem latched_blkIdx (tag arg : Byte) (tile : Tile) (s : State) : (latched tag arg tile s).blkIdx = s.blkIdx := rfl
@[simp] theorem latched_scratch (tag arg : Byte) (tile : Tile) (s : State) : (latched tag arg tile s).scratch = s.scratch := rfl
@[simp] theorem latched_burst (tag arg : Byte) (tile : Tile) (s : State) : (latched tag arg tile s).burst = s.burst := rfl
@[simp] theorem latched_cfg (tag arg : Byte) (tile : Tile) (s : State) : (latched tag arg tile s).cfg = s.cfg := rfl
@[simp] theorem latched_pix (tag arg : Byte) (tile : Tile) (s : State) : (latched tag arg tile s).pix = s.pix := rfl
@[simp] theorem latched_cmdSent (tag arg : Byte) (tile : Tile) (s : State) : (latched tag arg tile s).cmdSent = s.cmdSent := rfl
@[simp] theorem latched_blockDue (tag arg : Byte) (tile : Tile) (s : State) : (latched tag arg tile s).blockDue = s.blockDue := rfl
@[simp] theorem latched_bus (tag arg : Byte) (tile : Tile) (s : State) : (latched tag arg tile s).bus = s.bus := rfl
@[simp] theorem latched_msgs (tag arg : Byte) (tile : Tile) (s : State) : (latched tag arg tile s).msgs = s.msgs := rfl
@[simp] theorem latched_rst (tag arg : Byte) (tile : Tile) (s : State) : (latched tag arg tile s).rst = s.rst := rfl
@[simp] theorem latched_trace (tag arg : Byte) (tile : Tile) (s : State) : (latched tag arg tile s).trace = s.trace := rfl
@[simp] theorem latched_oldTraces (tag arg : Byte) (tile : Tile) (s : State) : (latched tag arg tile s).oldTraces = s.oldTraces := rfl
@[simp] theorem latched_pcPastTop (tag arg : Byte) (tile : Tile) (s : State) : (latched tag arg tile s).pcPastTop = s.pcPastTop := rfl
@[simp] theorem latched_freeCnt (tag arg : Byte) (tile : Tile) (s : State) : (latched tag arg tile s).freeCnt = s.freeCnt := rfl
@[simp] theorem latched_waitedMs (tag arg : Byte) (tile : Tile) (s : State) : (latched tag arg tile s).waitedMs = s.waitedMs := rfl

/-! ### State.beginDraw -/

@[simp] theorem State.beginDraw_pstate (s : State) : (s.beginDraw).pstate = s.pstate := rfl
@[simp] theorem State.beginDraw_phase (s : State) : (s.beginDraw).phase = .drawWin := rfl
@[simp] theorem State.beginDraw_seqPc (s : State) : (s.beginDraw).seqPc = s.seqPc := rfl
@[simp] theorem State.beginDraw_seqQ (s : State) : (s.beginDraw).seqQ = s.seqQ := rfl
@[simp] theorem State.beginDraw_pendPs (s : State) : (s.beginDraw).pendPs = s.pendPs := rfl
@[simp] theorem State.beginDraw_dlyCnt (s : State) : (s.beginDraw).dlyCnt = s.dlyCnt := rfl
@[simp] theorem State.beginDraw_xferOpen (s : State) : (s.beginDraw).xferOpen = s.xferOpen := rfl
@[simp] theorem State.beginDraw_xferSeen (s : State) : (s.beginDraw).xferSeen = s.xferSeen := rfl
@[simp] theorem State.beginDraw_result (s : State) : (s.beginDraw).result = s.result := rfl
@[simp] theorem State.beginDraw_done (s : State) : (s.beginDraw).done = s.done := rfl
@[simp] theorem State.beginDraw_ready (s : State) : (s.beginDraw).ready = s.ready := rfl
@[simp] theorem State.beginDraw_fault (s : State) : (s.beginDraw).fault = s.fault := rfl
@[simp] theorem State.beginDraw_faultCause (s : State) : (s.beginDraw).faultCause = s.faultCause := rfl
@[simp] theorem State.beginDraw_faultPc (s : State) : (s.beginDraw).faultPc = s.faultPc := rfl
@[simp] theorem State.beginDraw_ramValid (s : State) : (s.beginDraw).ramValid = s.ramValid := rfl
@[simp] theorem State.beginDraw_mTag (s : State) : (s.beginDraw).mTag = s.mTag := rfl
@[simp] theorem State.beginDraw_mArg (s : State) : (s.beginDraw).mArg = s.mArg := rfl
@[simp] theorem State.beginDraw_tX (s : State) : (s.beginDraw).tX = s.tX := rfl
@[simp] theorem State.beginDraw_tY (s : State) : (s.beginDraw).tY = s.tY := rfl
@[simp] theorem State.beginDraw_tCnt (s : State) : (s.beginDraw).tCnt = s.tCnt := rfl
@[simp] theorem State.beginDraw_tPtr (s : State) : (s.beginDraw).tPtr = s.tPtr := rfl
@[simp] theorem State.beginDraw_row (s : State) : (s.beginDraw).row = s.row := rfl
@[simp] theorem State.beginDraw_col (s : State) : (s.beginDraw).col = s.col := rfl
@[simp] theorem State.beginDraw_colEnd (s : State) : (s.beginDraw).colEnd = s.colEnd := rfl
@[simp] theorem State.beginDraw_blkIdx (s : State) : (s.beginDraw).blkIdx = s.blkIdx := rfl
@[simp] theorem State.beginDraw_scratch (s : State) : (s.beginDraw).scratch = s.scratch := rfl
@[simp] theorem State.beginDraw_burst (s : State) : (s.beginDraw).burst = s.burst := rfl
@[simp] theorem State.beginDraw_cfg (s : State) : (s.beginDraw).cfg = s.cfg := rfl
@[simp] theorem State.beginDraw_pix (s : State) : (s.beginDraw).pix = s.pix := rfl
@[simp] theorem State.beginDraw_cmdSent (s : State) : (s.beginDraw).cmdSent = s.cmdSent := rfl
@[simp] theorem State.beginDraw_blockDue (s : State) : (s.beginDraw).blockDue = s.blockDue := rfl
@[simp] theorem State.beginDraw_bus (s : State) : (s.beginDraw).bus = s.bus := rfl
@[simp] theorem State.beginDraw_msgs (s : State) : (s.beginDraw).msgs = s.msgs := rfl
@[simp] theorem State.beginDraw_rst (s : State) : (s.beginDraw).rst = s.rst := rfl
@[simp] theorem State.beginDraw_trace (s : State) : (s.beginDraw).trace = s.trace := rfl
@[simp] theorem State.beginDraw_oldTraces (s : State) : (s.beginDraw).oldTraces = s.oldTraces := rfl
@[simp] theorem State.beginDraw_pcPastTop (s : State) : (s.beginDraw).pcPastTop = s.pcPastTop := rfl
@[simp] theorem State.beginDraw_freeCnt (s : State) : (s.beginDraw).freeCnt = s.freeCnt := rfl
@[simp] theorem State.beginDraw_waitedMs (s : State) : (s.beginDraw).waitedMs = s.waitedMs := rfl

/-! ### eventTaken -/

@[simp] theorem eventTaken_pstate (e : BusEvent) (s : State) : (eventTaken e s).pstate = s.pstate := rfl
@[simp] theorem eventTaken_phase (e : BusEvent) (s : State) : (eventTaken e s).phase = s.phase := rfl
@[simp] theorem eventTaken_seqPc (e : BusEvent) (s : State) : (eventTaken e s).seqPc = s.seqPc := rfl
@[simp] theorem eventTaken_seqQ (e : BusEvent) (s : State) : (eventTaken e s).seqQ = s.seqQ := rfl
@[simp] theorem eventTaken_pendPs (e : BusEvent) (s : State) : (eventTaken e s).pendPs = s.pendPs := rfl
@[simp] theorem eventTaken_dlyCnt (e : BusEvent) (s : State) : (eventTaken e s).dlyCnt = s.dlyCnt := rfl
@[simp] theorem eventTaken_xferOpen (e : BusEvent) (s : State) : (eventTaken e s).xferOpen = s.xferOpen := rfl
@[simp] theorem eventTaken_xferSeen (e : BusEvent) (s : State) : (eventTaken e s).xferSeen = s.xferSeen := rfl
@[simp] theorem eventTaken_result (e : BusEvent) (s : State) : (eventTaken e s).result = s.result := rfl
@[simp] theorem eventTaken_done (e : BusEvent) (s : State) : (eventTaken e s).done = s.done := rfl
@[simp] theorem eventTaken_ready (e : BusEvent) (s : State) : (eventTaken e s).ready = s.ready := rfl
@[simp] theorem eventTaken_fault (e : BusEvent) (s : State) : (eventTaken e s).fault = s.fault := rfl
@[simp] theorem eventTaken_faultCause (e : BusEvent) (s : State) : (eventTaken e s).faultCause = s.faultCause := rfl
@[simp] theorem eventTaken_faultPc (e : BusEvent) (s : State) : (eventTaken e s).faultPc = s.faultPc := rfl
@[simp] theorem eventTaken_ramValid (e : BusEvent) (s : State) : (eventTaken e s).ramValid = s.ramValid := rfl
@[simp] theorem eventTaken_mTag (e : BusEvent) (s : State) : (eventTaken e s).mTag = s.mTag := rfl
@[simp] theorem eventTaken_mArg (e : BusEvent) (s : State) : (eventTaken e s).mArg = s.mArg := rfl
@[simp] theorem eventTaken_tX (e : BusEvent) (s : State) : (eventTaken e s).tX = s.tX := rfl
@[simp] theorem eventTaken_tY (e : BusEvent) (s : State) : (eventTaken e s).tY = s.tY := rfl
@[simp] theorem eventTaken_tCnt (e : BusEvent) (s : State) : (eventTaken e s).tCnt = s.tCnt := rfl
@[simp] theorem eventTaken_tPtr (e : BusEvent) (s : State) : (eventTaken e s).tPtr = s.tPtr := rfl
@[simp] theorem eventTaken_row (e : BusEvent) (s : State) : (eventTaken e s).row = s.row := rfl
@[simp] theorem eventTaken_col (e : BusEvent) (s : State) : (eventTaken e s).col = s.col := rfl
@[simp] theorem eventTaken_colEnd (e : BusEvent) (s : State) : (eventTaken e s).colEnd = s.colEnd := rfl
@[simp] theorem eventTaken_blkIdx (e : BusEvent) (s : State) : (eventTaken e s).blkIdx = s.blkIdx := rfl
@[simp] theorem eventTaken_scratch (e : BusEvent) (s : State) : (eventTaken e s).scratch = s.scratch := rfl
@[simp] theorem eventTaken_burst (e : BusEvent) (s : State) : (eventTaken e s).burst = s.burst := rfl
@[simp] theorem eventTaken_cfg (e : BusEvent) (s : State) : (eventTaken e s).cfg = s.cfg := rfl
@[simp] theorem eventTaken_pix (e : BusEvent) (s : State) : (eventTaken e s).pix = s.pix := rfl
@[simp] theorem eventTaken_cmdSent (e : BusEvent) (s : State) : (eventTaken e s).cmdSent = s.cmdSent := rfl
@[simp] theorem eventTaken_blockDue (e : BusEvent) (s : State) : (eventTaken e s).blockDue = s.blockDue := rfl
@[simp] theorem eventTaken_bus (e : BusEvent) (s : State) : (eventTaken e s).bus = s.bus.tail := rfl
@[simp] theorem eventTaken_msgs (e : BusEvent) (s : State) : (eventTaken e s).msgs = s.msgs := rfl
@[simp] theorem eventTaken_rst (e : BusEvent) (s : State) : (eventTaken e s).rst = s.rst := rfl
@[simp] theorem eventTaken_trace (e : BusEvent) (s : State) : (eventTaken e s).trace = s.trace ++ [e] := rfl
@[simp] theorem eventTaken_oldTraces (e : BusEvent) (s : State) : (eventTaken e s).oldTraces = s.oldTraces := rfl
@[simp] theorem eventTaken_pcPastTop (e : BusEvent) (s : State) : (eventTaken e s).pcPastTop = s.pcPastTop := rfl
@[simp] theorem eventTaken_freeCnt (e : BusEvent) (s : State) : (eventTaken e s).freeCnt = s.freeCnt := rfl
@[simp] theorem eventTaken_waitedMs (e : BusEvent) (s : State) : (eventTaken e s).waitedMs = s.waitedMs := rfl

end Sys2Proof.Machine
end

