-- ==== Sys2Proof/Laws/Ops.lean ====
section
/-!
SUPPORT. One lemma a shared operation: everything it can answer.
-/
namespace Sys2Proof.Machine

/-- A checked meaning answers a next state: the fault of its first failing check, or the run's. -/
theorem checked_next {check : Option FaultCause} {s t : State} {run : Out} (h : checked check s run = .next t) :
    (∃ cause, check = some cause ∧ t = configFaulted cause s) ∨ (check = none ∧ run = .next t) := by
  cases check with
  | some c => exact .inl ⟨c, rfl, by cases h; rfl⟩
  | none => exact .inr ⟨rfl, h⟩

@[simp] theorem checked_none (s : State) (run : Out) : checked none s run = run := rfl

@[simp] theorem checked_some (c : FaultCause) (s : State) (run : Out) :
    checked (some c) s run = .next (configFaulted c s) := rfl

/-! ### The handshake with the bus -/

@[simp] theorem emit_eq_eventTaken (e : BusEvent) (s : State) : s.emit e = eventTaken e s := rfl

/-- A bus that takes the event at once: the block goes on (R141). -/
theorem present_of_takes {e : BusEvent} {s : State} {go : State → State} (h : s.busTakes = true) :
    present e s go = .next (go (eventTaken e s)) := by
  unfold present
  unfold State.busTakes at h
  split <;> simp_all

/-- A bus that holds the event: nothing changes but the bus's own answer (R141). -/
theorem present_of_holds {e : BusEvent} {s : State} {go : State → State} {k : Nat} {ws : List BusReply}
    (h : s.bus = .after (k + 1) :: ws) : present e s go = .next { s with bus := .after k :: ws } := by
  unfold present; rw [h]

/-- A bus that never accepts: the block is stuck (R141). -/
theorem present_of_never {e : BusEvent} {s : State} {go : State → State} {ws : List BusReply}
    (h : s.bus = .never :: ws) : present e s go = .fault .busNeverAccepts := by
  unfold present; rw [h]

/-- A presented event leads to a next state: it is taken, or held. -/
theorem present_next {e : BusEvent} {s t : State} {go : State → State} (h : present e s go = .next t) :
    (s.busTakes = true ∧ t = go (eventTaken e s)) ∨
    (∃ k ws, s.bus = .after (k + 1) :: ws ∧ t = { s with bus := .after k :: ws }) := by
  unfold present at h
  split at h
  · rename_i hb; cases h; exact .inl ⟨by simp [State.busTakes, hb], rfl⟩
  · rename_i hb; cases h; exact .inl ⟨by simp [State.busTakes, hb], rfl⟩
  · rename_i k ws hb; cases h; exact .inr ⟨k, ws, hb, rfl⟩
  · cases h

/-- A command with arguments: its SendCommand is taken, its SendArgs is taken, or the one that is due is held (R104). -/
theorem presentCommandArgs_next {op : Byte} {args : List Byte} {s t : State} {go : State → State}
    (h : presentCommandArgs op args s go = .next t) :
    (s.busTakes = true ∧ s.cmdSent = false ∧ t = (eventTaken (.sendCommand op) s).commandSent) ∨
    (s.busTakes = true ∧ s.cmdSent = true ∧ t = go (eventTaken (.sendArgs args) s).argsSent) ∨
    (∃ k ws, s.bus = .after (k + 1) :: ws ∧ t = { s with bus := .after k :: ws }) := by
  unfold presentCommandArgs at h
  rcases present_next h with ⟨hb, rfl⟩ | h
  · cases hc : s.cmdSent
    · exact .inl ⟨hb, rfl, by simp [commandEvent, hc]⟩
    · exact .inr (.inl ⟨hb, rfl, by simp [commandEvent, hc]⟩)
  · exact .inr (.inr h)

theorem presentCommandArgs_command {op : Byte} {args : List Byte} {s : State} {go : State → State}
    (hb : s.busTakes = true) (hc : s.cmdSent = false) :
    presentCommandArgs op args s go = .next (eventTaken (.sendCommand op) s).commandSent := by
  unfold presentCommandArgs; rw [present_of_takes hb]; simp [commandEvent, hc]

theorem presentCommandArgs_args {op : Byte} {args : List Byte} {s : State} {go : State → State}
    (hb : s.busTakes = true) (hc : s.cmdSent = true) :
    presentCommandArgs op args s go = .next (go (eventTaken (.sendArgs args) s).argsSent) := by
  unfold presentCommandArgs; rw [present_of_takes hb]; simp [commandEvent, hc]

/-! ### The checks -/

/-- No check records the cause NONE. -/
theorem startCheck_ne_none {s : State} {c : FaultCause} (h : startCheck s = some c) : c ≠ .none := by
  unfold startCheck at h
  split at h
  · cases h; simp
  · split at h
    · cases h; simp
    · cases h

theorem endxCheck_ne_none {s : State} {c : FaultCause} (h : endxCheck s = some c) : c ≠ .none := by
  unfold endxCheck at h
  split at h
  · cases h
  · cases h; simp

theorem insideCheck_ne_none {s : State} {c : FaultCause} (h : insideCheck s = some c) : c ≠ .none := by
  unfold insideCheck at h
  split at h
  · cases h
  · cases h; simp

theorem cmdaCheck_ne_none {args : List Byte} {s : State} {c : FaultCause} (h : cmdaCheck args s = some c) : c ≠ .none := by
  unfold cmdaCheck at h
  split at h
  · cases h; simp
  · exact insideCheck_ne_none h

theorem endCheck_ne_none {s : State} {c : FaultCause} (h : endCheck s = some c) : c ≠ .none := by
  unfold endCheck at h
  split at h
  · cases h; simp
  · split at h
    · cases h
    · cases h; simp

theorem startCheck_eq_none {s : State} : startCheck s = none ↔ s.xferOpen = false ∧ s.xferSeen = false := by
  unfold startCheck; cases s.xferOpen <;> cases s.xferSeen <;> simp

theorem endxCheck_eq_none {s : State} : endxCheck s = none ↔ s.xferOpen = true := by
  unfold endxCheck; cases s.xferOpen <;> simp

theorem insideCheck_eq_none {s : State} : insideCheck s = none ↔ s.xferOpen = true := by
  unfold insideCheck; cases s.xferOpen <;> simp

theorem cmdaCheck_eq_none {args : List Byte} {s : State} : cmdaCheck args s = none ↔ args ≠ [] ∧ s.xferOpen = true := by
  unfold cmdaCheck; split <;> simp_all [insideCheck_eq_none]

theorem endCheck_eq_none {s : State} : endCheck s = none ↔ s.xferOpen = false ∧ s.xferSeen = true := by
  unfold endCheck; cases s.xferOpen <;> cases s.xferSeen <;> simp

/-- SEQ_PC moves on, or runs past 0xFFFF and holds a free value (R21). -/
theorem advance_moved (n : Nat) (s : State) : SeqPcMoved n s (s.advance n) := by
  unfold State.advance SeqPcMoved
  split
  · rename_i h; exact .inl ⟨h.1, h.2, rfl⟩
  · rename_i h; exact .inr ⟨h, _, rfl⟩

theorem advance_of_lt {n : Nat} {s : State} (hp : s.pcPastTop = false) (h : s.seqPc.toNat + n < 65536) :
    s.advance n = { s with seqPc := s.seqPc + BitVec.ofNat 16 n } := by
  unfold State.advance; rw [if_pos ⟨hp, h⟩]

/-- SeqDone: the next base of SEQ_Q, or the end of the message (R205). -/
theorem seqDone_cases (s : State) :
    (∃ b q, s.seqQ = b :: q ∧ s.seqDone = sequenceStarted b { s with seqQ := q }) ∨
    (s.seqQ = [] ∧ s.seqDone = s.finish true) := by
  unfold State.seqDone
  split
  · rename_i b q h; exact .inl ⟨b, q, h, rfl⟩
  · rename_i h; exact .inr ⟨h, rfl⟩

@[simp] theorem accept_eq_latched (tag arg : Byte) (tile : Tile) (s : State) :
    s.accept tag arg tile = latched tag arg tile s := rfl

/-- A message is accepted and handled, or waits (R200). -/
theorem onAccept_of_ready {tag arg : Byte} {tile : Tile} {f : State → State} {s : State} (h : s.canAccept = true) :
    onAccept tag arg tile f s = .next (f (latched tag arg tile s)) := by
  unfold onAccept; rw [if_pos h]; rfl

theorem onAccept_of_busy {tag arg : Byte} {tile : Tile} {f : State → State} {s : State} (h : s.canAccept = false) :
    onAccept tag arg tile f s = .next s := by
  unfold onAccept; rw [if_neg (by simp [h])]

theorem canAccept_iff {s : State} : s.canAccept = true ↔ s.phase = .idle ∧ s.ready = true := by
  simp [State.canAccept]

/-- After `finish`, PSTATE is what it was or what PEND_PS held, and only on success (R203). -/
theorem finishPState_cases (r : Bool) (s : State) :
    s.finishPState r = s.pstate ∨ (r = true ∧ s.pendPs = some (s.finishPState r)) := by
  unfold State.finishPState
  split
  · rename_i h; exact .inr ⟨rfl, h⟩
  · exact .inl rfl

@[simp] theorem finishPState_false (s : State) : s.finishPState false = s.pstate := rfl

theorem finishPState_keep {s : State} (h : s.pendPs = none) (r : Bool) : s.finishPState r = s.pstate := by
  unfold State.finishPState; cases r <;> simp [h]

@[simp] theorem finishRamValid_false (s : State) : s.finishRamValid false = s.ramValid := by
  simp [State.finishRamValid]

/-! ### The steps of the phases that fetch nothing -/

/-- A step in WAIT: a tick, or the last one (R106). -/
theorem stepWait_next {s t : State} (h : stepWait s = .next t) :
    (s.dlyCnt.toNat ≤ 1 ∧ t = { s with dlyCnt := 0, phase := .seq, waitedMs := s.waitedMs + s.dlyCnt.toNat }) ∨
    (1 < s.dlyCnt.toNat ∧ t = { s with dlyCnt := s.dlyCnt - 1, waitedMs := s.waitedMs + 1 }) := by
  unfold stepWait at h
  split at h
  · rename_i hd; cases h; exact .inl ⟨hd, rfl⟩
  · rename_i hd; cases h; exact .inr ⟨by omega, rfl⟩

/-- The burst goes on: the next command, or the data phase. -/
theorem burstGoesOn_cases (ws : List WindowCommand) (s : State) :
    (ws = [] ∧ s.burstGoesOn ws = { s with burst := [], phase := .drawData, blkIdx := 0 }) ∨
    (ws ≠ [] ∧ s.burstGoesOn ws = { s with burst := ws }) := by
  cases ws
  · exact .inl ⟨rfl, rfl⟩
  · exact .inr ⟨by simp, rfl⟩

/-- A step in DRAW_WIN: StartTransfer, an event of the burst, or the same event held (R163, R221). -/
theorem stepDrawWin_next {s t : State} (h : stepDrawWin s = .next t) :
    (s.xferOpen = true ∧ s.burst = [] ∧ t = s.beginData) ∨
    (s.xferOpen = false ∧ s.busTakes = true ∧ t = (eventTaken .startTransfer s).openWindow) ∨
    (s.xferOpen = true ∧ ∃ w ws, s.burst = w :: ws ∧ w.args = [] ∧ s.busTakes = true ∧
      t = (eventTaken (.sendCommand w.op) s).burstGoesOn ws) ∨
    (s.xferOpen = true ∧ ∃ w ws, s.burst = w :: ws ∧ w.args ≠ [] ∧ s.busTakes = true ∧ s.cmdSent = false ∧
      t = (eventTaken (.sendCommand w.op) s).commandSent) ∨
    (s.xferOpen = true ∧ ∃ w ws, s.burst = w :: ws ∧ w.args ≠ [] ∧ s.busTakes = true ∧ s.cmdSent = true ∧
      t = (eventTaken (.sendArgs w.args) s).argsSent.burstGoesOn ws) ∨
    (∃ k ws, s.bus = .after (k + 1) :: ws ∧ t = { s with bus := .after k :: ws } ∧
      (s.xferOpen = true → s.burst ≠ [])) := by
  unfold stepDrawWin at h
  split at h
  · rename_i ho
    split at h
    · rename_i hb; cases h; exact .inl ⟨ho, hb, rfl⟩
    · rename_i w ws hb
      unfold runWindowCommand at h
      split at h
      · rename_i ha
        rcases present_next h with ⟨ht, rfl⟩ | ⟨k, bs, hk, rfl⟩
        · exact .inr (.inr (.inl ⟨ho, w, ws, hb, ha, ht, rfl⟩))
        · exact .inr (.inr (.inr (.inr (.inr ⟨k, bs, hk, rfl, fun _ => by simp [hb]⟩))))
      · rename_i a as ha
        have hne : w.args ≠ [] := by simp [ha]
        rcases presentCommandArgs_next h with ⟨ht, hc, rfl⟩ | ⟨ht, hc, rfl⟩ | ⟨k, bs, hk, rfl⟩
        · exact .inr (.inr (.inr (.inl ⟨ho, w, ws, hb, hne, ht, hc, rfl⟩)))
        · exact .inr (.inr (.inr (.inr (.inl ⟨ho, w, ws, hb, hne, ht, hc, rfl⟩))))
        · exact .inr (.inr (.inr (.inr (.inr ⟨k, bs, hk, rfl, fun _ => by simp [hb]⟩))))
  · rename_i ho
    have ho : s.xferOpen = false := by simpa using ho
    rcases present_next h with ⟨ht, rfl⟩ | ⟨k, bs, hk, rfl⟩
    · exact .inr (.inl ⟨ho, ht, rfl⟩)
    · exact .inr (.inr (.inr (.inr (.inr ⟨k, bs, hk, rfl, fun q => by simp [ho] at q⟩))))

/-- A step in DRAW_DATA: SCRATCH sent, SCRATCH held, a block converted into it, or the end of the loop (R181, R221). -/
theorem stepDrawData_next {s t : State} (h : stepDrawData s = .next t) :
    (s.blockDue = true ∧ s.busTakes = true ∧ t = (eventTaken (.sendData s.scratch) s).blockSent) ∨
    (s.blockDue = true ∧ ∃ k ws, s.bus = .after (k + 1) :: ws ∧ t = { s with bus := .after k :: ws }) ∨
    (s.blockDue = false ∧ s.blkIdx.toNat < s.tCnt.toNat ∧
      ∃ input, memReadPix s (s.tPtr + 8 * s.blkIdx.toNat) = some input ∧ t = s.convertBlock input) ∨
    (s.blockDue = false ∧ s.tCnt.toNat ≤ s.blkIdx.toNat ∧ t = { s with phase := .drawEnd }) := by
  unfold stepDrawData at h
  split at h
  · rename_i hd
    rcases present_next h with ⟨ht, rfl⟩ | hk
    · exact .inl ⟨hd, ht, rfl⟩
    · exact .inr (.inl ⟨hd, hk⟩)
  · rename_i hd
    have hd : s.blockDue = false := by simpa using hd
    split at h
    · rename_i hb
      split at h
      · rename_i b hr; cases h; exact .inr (.inr (.inl ⟨hd, hb, b, hr, rfl⟩))
      · cases h
    · rename_i hb; cases h; exact .inr (.inr (.inr ⟨hd, by omega, rfl⟩))

end Sys2Proof.Machine
end

