-- ==== Sys2Proof/Laws/PerInstr.lean ====
section
/-!
SUPPORT. One family, instruction by instruction: the encoder and the length table agree. What follows the opcode byte of a
well-formed instruction is what the opcode byte announces (30_encoding.md R72, R75), and a message instruction carries a
recognised tag unless it is an unknown one (R76).
-/
namespace Sys2Proof.Laws.EncodingShape

/-- The operand bytes `r` are those that the opcode byte `b` announces (R72). -/
def Announced (b : Byte) (r : List Byte) : Prop :=
  match operandForm b with
  | .fixed k => r.length = k
  | .counted => ∃ op n args, r = op :: n :: args ∧ args.length = n.toNat ∧ n ≠ 0

def Statement (i : Instr) : Prop :=
  i.wf = true →
    match encode i with
    | .rom bs => ∃ b r, bs = b :: r ∧ Announced b r ∧ ((∃ o, i = .reserved o) ↔ definedOpcode b = false)
    | .port m => (∃ t a tile, i = .unknownTag t a tile) ↔ recognisedTag m.tag = false

theorem start : Statement .start := fun _ => ⟨_, _, rfl, rfl, by simp [definedOpcode]⟩

theorem endx : Statement .endx := fun _ => ⟨_, _, rfl, rfl, by simp [definedOpcode]⟩

theorem cmd (op : Byte) : Statement (.cmd op) := fun _ => ⟨_, _, rfl, rfl, by simp [definedOpcode]⟩

theorem cmda (op : Byte) (args : List Byte) : Statement (.cmda op args) := by
  intro h
  simp only [Instr.wf, decide_eq_true_eq] at h
  have hn := toNat_ofNat_length h.2
  refine ⟨_, _, rfl, ⟨op, _, args, rfl, hn.symm, fun q => ?_⟩, by simp [definedOpcode]⟩
  have : (BitVec.ofNat 8 args.length).toNat = 0 := by rw [q]; rfl
  omega

theorem dly (d : Byte) : Statement (.dly d) := fun _ => ⟨_, _, rfl, rfl, by simp [definedOpcode]⟩

theorem endSeq : Statement .endSeq := fun _ => ⟨_, _, rfl, rfl, by simp [definedOpcode]⟩

theorem reserved (opcode : Byte) : Statement (.reserved opcode) := by
  intro h
  simp only [Instr.wf, Bool.not_eq_true'] at h
  refine ⟨_, _, rfl, ?_, ⟨fun _ => h, fun _ => ⟨_, rfl⟩⟩⟩
  simp only [Announced, operandForm_reserved h, List.length_nil]

theorem setup (arg : Byte) (tile : Tile) : Statement (.setup arg tile) := by
  intro _; simp [encode, recognisedTag]

theorem init (arg : Byte) (tile : Tile) : Statement (.init arg tile) := by
  intro _; simp [encode, recognisedTag]

theorem powersave (arg : Byte) (tile : Tile) : Statement (.powersave arg tile) := by
  intro _; simp [encode, recognisedTag]

theorem flip (arg : Byte) (tile : Tile) : Statement (.flip arg tile) := by
  intro _; simp [encode, recognisedTag]

theorem draw (arg : Byte) (tile : Tile) : Statement (.draw arg tile) := by
  intro _; simp [encode, recognisedTag]

theorem refresh (arg : Byte) (tile : Tile) : Statement (.refresh arg tile) := by
  intro _; simp [encode, recognisedTag]

theorem unknownTag (tag arg : Byte) (tile : Tile) : Statement (.unknownTag tag arg tile) := by
  intro h
  simp only [Instr.wf, Bool.not_eq_true'] at h
  exact ⟨fun _ => h, fun _ => ⟨tag, arg, tile, rfl⟩⟩

end Sys2Proof.Laws.EncodingShape
end

