-- ==== Sys2Proof/Laws/Step.lean ====
section
/-!
SUPPORT. What a step can do, said once: the fetch, the two kinds of `exec`, and the step by phase.
-/
namespace Sys2Proof.Machine

/-- What the fetch answers: a ROM instruction whose encoding stands at the address, well-formed but for the CMDA with
n = 0 (R75). -/
theorem fetchInstr_some {c : Config} {pc : Nat} {i : Instr} (h : fetchInstr c pc = some i) :
    i.inRom = true ∧ (i.wf = true ∨ ∃ o, i = .cmda o []) ∧ memReadSeq c pc i.len = some (romBytes i) := by
  unfold fetchInstr at h
  split at h
  · rename_i bs hb
    split at h
    · rename_i j r hd
      cases h
      unfold fetchBytes at hb
      split at hb
      · rename_i b0 h0
        by_cases h1 : b0 = 0x01
        · subst h1
          have : memReadSeq c pc 1 = some bs := hb
          rw [h0] at this; cases this; cases hd; exact ⟨rfl, .inl rfl, h0⟩
        by_cases h2 : b0 = 0x02
        · subst h2
          have : memReadSeq c pc 1 = some bs := hb
          rw [h0] at this; cases this; cases hd; exact ⟨rfl, .inl rfl, h0⟩
        by_cases h3 : b0 = 0x03
        · subst h3
          have hb : memReadSeq c pc 2 = some bs := hb
          obtain ⟨o, rfl⟩ : ∃ o, bs = [0x03, o] := by
            rw [memReadSeq_eq_some] at hb h0
            have h0 := h0.2; have hb := hb.2
            simp only [memBytes] at h0 hb
            exact ⟨_, by rw [← hb, (List.cons.inj h0).1]⟩
          cases hd; exact ⟨rfl, .inl rfl, hb⟩
        by_cases h5 : b0 = 0xFE
        · subst h5
          have hb : memReadSeq c pc 2 = some bs := hb
          obtain ⟨o, rfl⟩ : ∃ o, bs = [0xFE, o] := by
            rw [memReadSeq_eq_some] at hb h0
            have h0 := h0.2; have hb := hb.2
            simp only [memBytes] at h0 hb
            exact ⟨_, by rw [← hb, (List.cons.inj h0).1]⟩
          cases hd; exact ⟨rfl, .inl rfl, hb⟩
        by_cases h4 : b0 = 0x04
        · subst h4
          have hf : operandForm 0x04 = .counted := rfl
          rw [hf] at hb
          simp only at hb
          split at hb
          · rename_i o n h2
            have hlen := memReadSeq_length hb
            obtain ⟨args, rfl⟩ : ∃ args, bs = 0x04 :: o :: n :: args := by
              rw [memReadSeq_eq_some] at hb h0 h2
              have h0 := h0.2; have hb := hb.2; have h2 := h2.2
              rw [show 3 + n.toNat = 1 + (2 + n.toNat) by omega, memBytes_add, memBytes_add, h0, h2] at hb
              exact ⟨_, hb.symm⟩
            have hargs : args.length = n.toNat := by
              simp only [List.length_cons] at hlen; omega
            rw [decodeSeq_cmda _ _ _ (by omega)] at hd
            have htake : args.take n.toNat = args := by rw [← hargs, List.take_length]
            cases hd
            rw [htake]
            have hn : BitVec.ofNat 8 args.length = n := by rw [hargs]; simp
            refine ⟨rfl, ?_, ?_⟩
            · cases args with
              | nil => exact .inr ⟨o, rfl⟩
              | cons a as =>
                left
                simp only [Instr.wf, decide_eq_true_eq]
                have := n.isLt
                simp only [List.length_cons] at hargs ⊢
                omega
            · simp only [Instr.len, romBytes, encode, hn, List.length_cons]
              rw [show args.length + 1 + 1 + 1 = 3 + n.toNat by omega]
              exact hb
          · cases hb
        by_cases h6 : b0 = 0xFF
        · subst h6
          have : memReadSeq c pc 1 = some bs := hb
          rw [h0] at this; cases this; cases hd; exact ⟨rfl, .inl rfl, h0⟩
        have hdef : definedOpcode b0 = false := by
          simp only [definedOpcode, Bool.or_eq_false_iff, beq_eq_false_iff_ne]
          exact ⟨⟨⟨⟨⟨h1, h2⟩, h3⟩, h4⟩, h5⟩, h6⟩
        rw [operandForm_reserved hdef] at hb
        have : memReadSeq c pc 1 = some bs := hb
        rw [h0] at this; cases this
        rw [decodeSeq_reserved _ hdef] at hd
        cases hd
        exact ⟨rfl, .inl (by simp [Instr.wf, hdef]), h0⟩
      · cases hb
    · cases h
  · cases h

/-- A ROM instruction answers a next state: its first failing check's ConfigFault, its effect, or its event held by the
bus (R101 to R107, R74, R141). -/
theorem exec_rom_next {i : Instr} {s t : State} (hrom : i.inRom = true) (h : exec i s = .next t) :
    (∃ cause, cause ≠ .none ∧ instrEvent i s = none ∧ t = configFaulted cause s) ∨
    (i = .start ∧ s.xferOpen = false ∧ s.xferSeen = false ∧ s.busTakes = true ∧
      t = (eventTaken .startTransfer s).openXfer.advance 1) ∨
    (i = .endx ∧ s.xferOpen = true ∧ s.busTakes = true ∧ t = (eventTaken .endTransfer s).closeXfer.markSeen.advance 1) ∨
    (∃ o, i = .cmd o ∧ s.xferOpen = true ∧ s.busTakes = true ∧ t = (eventTaken (.sendCommand o) s).advance 2) ∨
    (∃ o args, i = .cmda o args ∧ args ≠ [] ∧ s.xferOpen = true ∧ s.busTakes = true ∧ s.cmdSent = false ∧
      t = (eventTaken (.sendCommand o) s).commandSent) ∨
    (∃ o args, i = .cmda o args ∧ args ≠ [] ∧ s.xferOpen = true ∧ s.busTakes = true ∧ s.cmdSent = true ∧
      t = (eventTaken (.sendArgs args) s).argsSent.advance (3 + args.length)) ∨
    (∃ d, i = .dly d ∧ s.xferOpen = true ∧ s.busTakes = true ∧ t = ((eventTaken (.delay d) s).advance 2).loadDelay d) ∨
    (i = .endSeq ∧ s.xferOpen = false ∧ s.xferSeen = true ∧ t = s.seqDone) ∨
    (∃ e k ws, instrEvent i s = some e ∧ s.bus = .after (k + 1) :: ws ∧ t = { s with bus := .after k :: ws }) := by
  cases i with
  | start =>
    rcases checked_next h with ⟨c, hc, rfl⟩ | ⟨hc, h⟩
    · exact .inl ⟨c, startCheck_ne_none hc, if_neg (by simp [hc]), rfl⟩
    · have := startCheck_eq_none.mp hc
      rcases present_next h with ⟨hb, rfl⟩ | ⟨k, ws, hk, rfl⟩
      · exact .inr (.inl ⟨rfl, this.1, this.2, hb, rfl⟩)
      · exact .inr (.inr (.inr (.inr (.inr (.inr (.inr (.inr ⟨_, k, ws, if_pos hc, hk, rfl⟩)))))))
  | endx =>
    rcases checked_next h with ⟨c, hc, rfl⟩ | ⟨hc, h⟩
    · exact .inl ⟨c, endxCheck_ne_none hc, if_neg (by simp [hc]), rfl⟩
    · rcases present_next h with ⟨hb, rfl⟩ | ⟨k, ws, hk, rfl⟩
      · exact .inr (.inr (.inl ⟨rfl, endxCheck_eq_none.mp hc, hb, rfl⟩))
      · exact .inr (.inr (.inr (.inr (.inr (.inr (.inr (.inr ⟨_, k, ws, if_pos hc, hk, rfl⟩)))))))
  | cmd o =>
    rcases checked_next h with ⟨c, hc, rfl⟩ | ⟨hc, h⟩
    · exact .inl ⟨c, insideCheck_ne_none hc, if_neg (by simp [hc]), rfl⟩
    · rcases present_next h with ⟨hb, rfl⟩ | ⟨k, ws, hk, rfl⟩
      · exact .inr (.inr (.inr (.inl ⟨o, rfl, insideCheck_eq_none.mp hc, hb, rfl⟩)))
      · exact .inr (.inr (.inr (.inr (.inr (.inr (.inr (.inr ⟨_, k, ws, if_pos hc, hk, rfl⟩)))))))
  | cmda o args =>
    rcases checked_next h with ⟨c, hc, rfl⟩ | ⟨hc, h⟩
    · exact .inl ⟨c, cmdaCheck_ne_none hc, if_neg (by simp [hc]), rfl⟩
    · have := cmdaCheck_eq_none.mp hc
      rcases presentCommandArgs_next h with ⟨hb, hs, rfl⟩ | ⟨hb, hs, rfl⟩ | ⟨k, ws, hk, rfl⟩
      · exact .inr (.inr (.inr (.inr (.inl ⟨o, args, rfl, this.1, this.2, hb, hs, rfl⟩))))
      · exact .inr (.inr (.inr (.inr (.inr (.inl ⟨o, args, rfl, this.1, this.2, hb, hs, rfl⟩)))))
      · exact .inr (.inr (.inr (.inr (.inr (.inr (.inr (.inr ⟨_, k, ws, if_pos hc, hk, rfl⟩)))))))
  | dly d =>
    rcases checked_next h with ⟨c, hc, rfl⟩ | ⟨hc, h⟩
    · exact .inl ⟨c, insideCheck_ne_none hc, if_neg (by simp [hc]), rfl⟩
    · rcases present_next h with ⟨hb, rfl⟩ | ⟨k, ws, hk, rfl⟩
      · exact .inr (.inr (.inr (.inr (.inr (.inr (.inl ⟨d, rfl, insideCheck_eq_none.mp hc, hb, rfl⟩))))))
      · exact .inr (.inr (.inr (.inr (.inr (.inr (.inr (.inr ⟨_, k, ws, if_pos hc, hk, rfl⟩)))))))
  | endSeq =>
    rcases checked_next h with ⟨c, hc, rfl⟩ | ⟨hc, h⟩
    · exact .inl ⟨c, endCheck_ne_none hc, rfl, rfl⟩
    · have := endCheck_eq_none.mp hc
      cases h
      exact .inr (.inr (.inr (.inr (.inr (.inr (.inr (.inl ⟨rfl, this.1, this.2, rfl⟩)))))))
  | reserved b =>
    have h : checked (some .reservedOpcode) s (.next s) = .next t := h
    cases h
    exact .inl ⟨.reservedOpcode, by simp, rfl, rfl⟩
  | setup _ _ => simp [Instr.inRom, encode] at hrom
  | init _ _ => simp [Instr.inRom, encode] at hrom
  | powersave _ _ => simp [Instr.inRom, encode] at hrom
  | flip _ _ => simp [Instr.inRom, encode] at hrom
  | draw _ _ => simp [Instr.inRom, encode] at hrom
  | refresh _ _ => simp [Instr.inRom, encode] at hrom
  | unknownTag _ _ _ => simp [Instr.inRom, encode] at hrom

/-- The handler of a tag (R201). -/
def handlerOf (tag : Byte) : State → State :=
  if tag = 9 then State.finish true
  else if tag = 10 then State.beginInit
  else if tag = 11 then State.beginPowersave
  else if tag = 13 then State.finish true
  else if tag = 15 then State.drawTile
  else if tag = 16 then State.beginRefresh
  else State.finish false

/-- A message instruction runs the handler of its tag, where the port accepts (R200, R201). -/
theorem exec_decodeMsg {m : Message} {s : State} (h : s.canAccept = true) :
    exec (decodeMsg m) s = .next (handlerOf m.tag (latched m.tag m.arg m.tile s)) := by
  obtain ⟨tag, arg, tile⟩ := m
  unfold decodeMsg handlerOf
  dsimp only
  by_cases h9 : tag = 9
  · subst h9; exact onAccept_of_ready h
  by_cases h10 : tag = 10
  · subst h10; exact onAccept_of_ready h
  by_cases h11 : tag = 11
  · subst h11; exact onAccept_of_ready h
  by_cases h13 : tag = 13
  · subst h13; exact onAccept_of_ready h
  by_cases h15 : tag = 15
  · subst h15; exact onAccept_of_ready h
  by_cases h16 : tag = 16
  · subst h16; exact onAccept_of_ready h
  simp only [if_neg h9, if_neg h10, if_neg h11, if_neg h13, if_neg h15, if_neg h16]
  exact onAccept_of_ready h

/-- The four kinds of handler: ended with success, ended with failure, a stored sequence begun, a tile begun. -/
theorem handlerOf_cases (tag : Byte) (s : State) :
    (handlerOf tag s = s.finish true ∧ (tag = 9 ∨ tag = 13)) ∨
    (handlerOf tag s = s.finish false ∧
      (recognisedTag tag = false ∨ tag = 15 ∧ (s.pstate = .deepSleep ∨ s.pstate = .uninit))) ∨
    (∃ b q p, handlerOf tag s = sequenceStarted b { s with seqQ := q, pendPs := p } ∧
      (q = s.seqQ ∨ q = [s.cfg.baseActive]) ∧ (p = none ∨ p = some .active ∨ p = some .deepSleep)) ∨
    (handlerOf tag s = s.beginDraw ∧ tag = 15 ∧ s.pstate ≠ .deepSleep ∧ s.pstate ≠ .uninit) := by
  unfold handlerOf
  by_cases h9 : tag = 9
  · rw [if_pos h9]; exact .inl ⟨rfl, .inl h9⟩
  by_cases h10 : tag = 10
  · rw [if_neg h9, if_pos h10]
    exact .inr (.inr (.inl ⟨_, [s.cfg.baseActive], some .active, rfl, .inr rfl, .inr (.inl rfl)⟩))
  by_cases h11 : tag = 11
  · rw [if_neg h9, if_neg h10, if_pos h11]
    unfold State.beginPowersave
    split
    · exact .inr (.inr (.inl ⟨_, s.seqQ, some .active, rfl, .inl rfl, .inr (.inl rfl)⟩))
    · exact .inr (.inr (.inl ⟨_, s.seqQ, some .deepSleep, rfl, .inl rfl, .inr (.inr rfl)⟩))
  by_cases h13 : tag = 13
  · rw [if_neg h9, if_neg h10, if_neg h11, if_pos h13]; exact .inl ⟨rfl, .inr h13⟩
  by_cases h15 : tag = 15
  · rw [if_neg h9, if_neg h10, if_neg h11, if_neg h13, if_pos h15]
    unfold State.drawTile
    split
    · rename_i h; exact .inr (.inl ⟨rfl, .inr ⟨h15, h⟩⟩)
    · rename_i h; exact .inr (.inr (.inr ⟨rfl, h15, fun q => h (.inl q), fun q => h (.inr q)⟩))
  by_cases h16 : tag = 16
  · rw [if_neg h9, if_neg h10, if_neg h11, if_neg h13, if_neg h15, if_pos h16]
    exact .inr (.inr (.inl ⟨_, s.seqQ, none, rfl, .inl rfl, .inl rfl⟩))
  rw [if_neg h9, if_neg h10, if_neg h11, if_neg h13, if_neg h15, if_neg h16]
  refine .inr (.inl ⟨rfl, .inl ?_⟩)
  simp only [recognisedTag, Bool.or_eq_false_iff, beq_eq_false_iff_ne]
  exact ⟨⟨⟨⟨⟨h9, h10⟩, h11⟩, h13⟩, h15⟩, h16⟩

/-- Everything a step can do while RST is not asserted, each case with the conditions it happens under (R29). -/
inductive StepShape (s : State) : State → Prop where
  /-- IDLE, nothing to accept -/
  | rests (hp : s.phase = .idle) : StepShape s s
  /-- IDLE, a message accepted and its handler begun -/
  | accepts (hp : s.phase = .idle) (hr : s.ready = true) (m : Message) (rest : List Message) (hm : s.msgs = m :: rest) :
      StepShape s (handlerOf m.tag (latched m.tag m.arg m.tile { s with msgs := rest }))
  /-- a presented event is held by the bus -/
  | holds (e : BusEvent) (k : Nat) (ws : List BusReply) (he : s.presented = some e) (hb : s.bus = .after (k + 1) :: ws) :
      StepShape s { s with bus := .after k :: ws }
  /-- SEQ, a ConfigFault; no event is presented -/
  | faults (hp : s.phase = .seq) (c : FaultCause) (hc : c ≠ .none) (he : s.presented = none) :
      StepShape s (configFaulted c s)
  /-- SEQ, START -/
  | start (hp : s.phase = .seq) (hf : fetchInstr s.cfg s.fetchAddr = some .start) (ho : s.xferOpen = false)
      (hs : s.xferSeen = false) (hb : s.busTakes = true) :
      StepShape s ((eventTaken .startTransfer s).openXfer.advance 1)
  /-- SEQ, ENDX -/
  | endx (hp : s.phase = .seq) (hf : fetchInstr s.cfg s.fetchAddr = some .endx) (ho : s.xferOpen = true)
      (hb : s.busTakes = true) : StepShape s ((eventTaken .endTransfer s).closeXfer.markSeen.advance 1)
  /-- SEQ, CMD -/
  | cmd (hp : s.phase = .seq) (o : Byte) (hf : fetchInstr s.cfg s.fetchAddr = some (.cmd o)) (ho : s.xferOpen = true)
      (hb : s.busTakes = true) : StepShape s ((eventTaken (.sendCommand o) s).advance 2)
  /-- SEQ, the SendCommand of a CMDA -/
  | cmdaCommand (hp : s.phase = .seq) (o : Byte) (args : List Byte)
      (hf : fetchInstr s.cfg s.fetchAddr = some (.cmda o args)) (ha : args ≠ []) (ho : s.xferOpen = true)
      (hb : s.busTakes = true) (hc : s.cmdSent = false) : StepShape s (eventTaken (.sendCommand o) s).commandSent
  /-- SEQ, the SendArgs of a CMDA -/
  | cmdaArgs (hp : s.phase = .seq) (o : Byte) (args : List Byte)
      (hf : fetchInstr s.cfg s.fetchAddr = some (.cmda o args)) (ha : args ≠ []) (ho : s.xferOpen = true)
      (hb : s.busTakes = true) (hc : s.cmdSent = true) :
      StepShape s ((eventTaken (.sendArgs args) s).argsSent.advance (3 + args.length))
  /-- SEQ, DLY -/
  | dly (hp : s.phase = .seq) (d : Byte) (hf : fetchInstr s.cfg s.fetchAddr = some (.dly d)) (ho : s.xferOpen = true)
      (hb : s.busTakes = true) : StepShape s (((eventTaken (.delay d) s).advance 2).loadDelay d)
  /-- SEQ, END with another sequence to run -/
  | endHandsOver (hp : s.phase = .seq) (hf : fetchInstr s.cfg s.fetchAddr = some .endSeq) (ho : s.xferOpen = false)
      (hs : s.xferSeen = true) (b : Half) (q : List Half) (hq : s.seqQ = b :: q) :
      StepShape s (sequenceStarted b { s with seqQ := q })
  /-- SEQ, END of the message -/
  | endFinishes (hp : s.phase = .seq) (hf : fetchInstr s.cfg s.fetchAddr = some .endSeq) (ho : s.xferOpen = false)
      (hs : s.xferSeen = true) (hq : s.seqQ = []) : StepShape s (s.finish true)
  /-- WAIT, the last tick -/
  | wakes (hp : s.phase = .wait) (hd : s.dlyCnt.toNat ≤ 1) :
      StepShape s { s with dlyCnt := 0, phase := .seq, waitedMs := s.waitedMs + s.dlyCnt.toNat }
  /-- WAIT, another tick -/
  | ticks (hp : s.phase = .wait) (hd : 1 < s.dlyCnt.toNat) :
      StepShape s { s with dlyCnt := s.dlyCnt - 1, waitedMs := s.waitedMs + 1 }
  /-- DRAW_WIN, StartTransfer -/
  | opensWindow (hp : s.phase = .drawWin) (ho : s.xferOpen = false) (hb : s.busTakes = true) :
      StepShape s (eventTaken .startTransfer s).openWindow
  /-- DRAW_WIN with no command left, which no run reaches -/
  | burstEmpty (hp : s.phase = .drawWin) (ho : s.xferOpen = true) (hw : s.burst = []) : StepShape s s.beginData
  /-- DRAW_WIN, a command without arguments -/
  | windowCmd (hp : s.phase = .drawWin) (ho : s.xferOpen = true) (w : WindowCommand) (ws : List WindowCommand)
      (hw : s.burst = w :: ws) (ha : w.args = []) (hb : s.busTakes = true) :
      StepShape s ((eventTaken (.sendCommand w.op) s).burstGoesOn ws)
  /-- DRAW_WIN, the SendCommand of a command with arguments -/
  | windowCommand (hp : s.phase = .drawWin) (ho : s.xferOpen = true) (w : WindowCommand) (ws : List WindowCommand)
      (hw : s.burst = w :: ws) (ha : w.args ≠ []) (hb : s.busTakes = true) (hc : s.cmdSent = false) :
      StepShape s (eventTaken (.sendCommand w.op) s).commandSent
  /-- DRAW_WIN, the SendArgs of a command with arguments -/
  | windowArgs (hp : s.phase = .drawWin) (ho : s.xferOpen = true) (w : WindowCommand) (ws : List WindowCommand)
      (hw : s.burst = w :: ws) (ha : w.args ≠ []) (hb : s.busTakes = true) (hc : s.cmdSent = true) :
      StepShape s ((eventTaken (.sendArgs w.args) s).argsSent.burstGoesOn ws)
  /-- DRAW_DATA, a block converted into SCRATCH -/
  | converts (hp : s.phase = .drawData) (hd : s.blockDue = false) (hk : s.blkIdx.toNat < s.tCnt.toNat) (input : Block)
      (hm : memReadPix s (s.tPtr + 8 * s.blkIdx.toNat) = some input) : StepShape s (s.convertBlock input)
  /-- DRAW_DATA, the SendData of SCRATCH -/
  | block (hp : s.phase = .drawData) (hd : s.blockDue = true) (hb : s.busTakes = true) :
      StepShape s (eventTaken (.sendData s.scratch) s).blockSent
  /-- DRAW_DATA, no block left -/
  | dataEnds (hp : s.phase = .drawData) (hd : s.blockDue = false) (hk : s.tCnt.toNat ≤ s.blkIdx.toNat) :
      StepShape s { s with phase := .drawEnd }
  /-- DRAW_END -/
  | drawEnds (hp : s.phase = .drawEnd) (hb : s.busTakes = true) :
      StepShape s ((eventTaken .endTransfer s).closeXfer.finish true)

theorem step_shape {s t : State} (hr : s.rst = none) (h : step s = .next t) : StepShape s t := by
  unfold step at h
  rw [hr] at h
  dsimp only at h
  split at h
  · rename_i hp
    unfold stepIdle at h
    split at h
    · cases h; exact .rests hp
    · rename_i m rest hm
      split at h
      · rename_i hc
        rw [exec_decodeMsg (by exact hc)] at h
        cases h
        exact .accepts hp (canAccept_iff.mp hc).2 m rest hm
      · cases h; exact .rests hp
  · rename_i hp
    unfold stepSeq at h
    split at h
    · rename_i i hi
      rcases exec_rom_next (fetchInstr_some hi).1 h with ⟨c, hc, he, rfl⟩ | ⟨rfl, ho, hs, hb, rfl⟩ | ⟨rfl, ho, hb, rfl⟩ |
        ⟨o, rfl, ho, hb, rfl⟩ | ⟨o, a, rfl, ha, ho, hb, hc, rfl⟩ | ⟨o, a, rfl, ha, ho, hb, hc, rfl⟩ |
        ⟨d, rfl, ho, hb, rfl⟩ | ⟨rfl, ho, hs, rfl⟩ | ⟨e, k, ws, he, hk, rfl⟩
      · exact .faults hp c hc (by simp [State.presented, hp, hi, he])
      · exact .start hp hi ho hs hb
      · exact .endx hp hi ho hb
      · exact .cmd hp o hi ho hb
      · exact .cmdaCommand hp o a hi ha ho hb hc
      · exact .cmdaArgs hp o a hi ha ho hb hc
      · exact .dly hp d hi ho hb
      · rcases seqDone_cases s with ⟨b, q, hq, he⟩ | ⟨hq, he⟩ <;> rw [he]
        · exact .endHandsOver hp hi ho hs b q hq
        · exact .endFinishes hp hi ho hs hq
      · exact .holds e k ws (by simp [State.presented, hp, hi, he]) hk
    · rename_i hi; cases h; exact .faults hp .fetchRange (by simp) (by simp [State.presented, hp, hi])
  · rename_i hp
    rcases stepWait_next h with ⟨hd, rfl⟩ | ⟨hd, rfl⟩
    · exact .wakes hp hd
    · exact .ticks hp hd
  · rename_i hp
    rcases stepDrawWin_next h with ⟨ho, hw, rfl⟩ | ⟨ho, hb, rfl⟩ | ⟨ho, w, ws, hw, ha, hb, rfl⟩ |
      ⟨ho, w, ws, hw, ha, hb, hc, rfl⟩ | ⟨ho, w, ws, hw, ha, hb, hc, rfl⟩ | ⟨k, ws, hk, rfl, hn⟩
    · exact .burstEmpty hp ho hw
    · exact .opensWindow hp ho hb
    · exact .windowCmd hp ho w ws hw ha hb
    · exact .windowCommand hp ho w ws hw ha hb hc
    · exact .windowArgs hp ho w ws hw ha hb hc
    · by_cases ho : s.xferOpen = true
      · obtain ⟨w, vs, hw⟩ := List.exists_cons_of_ne_nil (hn ho)
        exact .holds (windowEvent w s) k ws (by simp [State.presented, hp, ho, hw]) hk
      · exact .holds .startTransfer k ws (by simp [State.presented, hp, ho]) hk
  · rename_i hp
    rcases stepDrawData_next h with ⟨hd, hb, rfl⟩ | ⟨hd, k, ws, hw, rfl⟩ | ⟨hd, hk, b, hm, rfl⟩ | ⟨hd, hk, rfl⟩
    · exact .block hp hd hb
    · exact .holds (.sendData s.scratch) k ws (by simp [State.presented, hp, hd]) hw
    · exact .converts hp hd hk b hm
    · exact .dataEnds hp hd hk
  · rename_i hp
    rcases present_next h with ⟨hb, rfl⟩ | ⟨k, ws, hk, rfl⟩
    · exact .drawEnds hp hb
    · exact .holds .endTransfer k ws (by simp [State.presented, hp]) hk
  · cases h

/-- A step under RST (R280). -/
theorem step_rst {s : State} {c : Config} (h : s.rst = some c) : step s = .next (s.applyRst c) := by
  unfold step; rw [h]

/-- Steps of a run, joined. -/
theorem Steps.trans {j k : Nat} {s u t : State} (h : Steps j s u) (h' : Steps k u t) : Steps (j + k) s t := by
  induction h with
  | refl s => rwa [Nat.zero_add]
  | cons hs _ ih => rw [Nat.add_right_comm]; exact .cons hs (ih h')

/-- One step as a run. -/
theorem Steps.one {s t : State} (h : step s = .next t) : Steps 1 s t := .cons h (.refl t)

/-- A bus that answers has the event in the end: where the step presents `e` and goes on with `go` whatever the bus's answers
are, some steps lead to `go` (R141). -/
theorem present_delivers {e : BusEvent} {s : State} {go : State → State} (ha : s.busAnswers = true)
    (h : ∀ b, step { s with bus := b } = present e { s with bus := b } go) :
    ∃ n, 0 < n ∧ Steps n s (go (eventTaken e s)) := by
  have hs : step s = present e s go := h s.bus
  match hb : s.bus with
  | [] => exact ⟨1, by omega, .one (by rw [hs]; exact present_of_takes (by simp [State.busTakes, hb]))⟩
  | .never :: ws => simp [State.busAnswers, hb] at ha
  | .after k :: ws =>
    have key : ∀ k, ∃ n, 0 < n ∧ Steps n { s with bus := .after k :: ws } (go (eventTaken e s)) := by
      intro k
      induction k with
      | zero =>
        refine ⟨1, by omega, .one ?_⟩
        rw [h, present_of_takes rfl]
        simp [eventTaken, hb]
      | succ k ih =>
        obtain ⟨n, -, hn⟩ := ih
        refine ⟨n + 1, by omega, .cons ?_ hn⟩
        rw [h]; rfl
    have := key k
    rwa [← hb] at this

/-- An event that has been taken leaves the bus's other answers. -/
theorem busAnswers_eventTaken {e : BusEvent} {s : State} (h : s.busAnswers = true) :
    (eventTaken e s).busAnswers = true := by
  unfold State.busAnswers at *
  exact List.all_eq_true.mpr fun r hr => List.all_eq_true.mp h r (List.mem_of_mem_tail hr)

end Sys2Proof.Machine
end

