-- ==== Sys2Proof/Tests/Slice0.lean ====
section
/-!
SUPPORT. Tests. Expected values are the spec's own: the worked examples in the rules and the vectors of
95_test_vectors.md (named by their ids). `witness_*` shows, for the obligation of that name, a state and operands that
meet its hypotheses together, for each clause of it at the ends of its range.
-/
namespace Sys2Proof.Tests
open Sys2Proof Sys2Proof.Machine

/-- The state an outcome goes on in. -/
def nextOf : Out → Option State
  | .next t => some t
  | .fault _ => none
  | .refused _ => none

/-- One field of the state an outcome goes on in. -/
def after {α : Type} (f : State → α) (o : Out) : Option α := (nextOf o).map f

/-- What a second execution answers, where the first goes on. -/
def again (run : State → Out) (s : State) : Out :=
  match run s with
  | .next t => run t
  | .fault r => .fault r
  | .refused r => .refused r

/-- The block in SEQ at address 0 of a ROM that holds the bytes and ends with them. -/
def seqOn (rom : List Byte) (isOpen seen : Bool) : State :=
  { State.reset with
    phase := .seq
    ready := false
    xferOpen := isOpen
    xferSeen := seen
    cfg := { Config.atReset with seqMem := memWriteBytes [] 0 rom, seqMemSize := rom.length } }

/-- The block in SEQ at an address of an empty ROM. -/
def seqAt (pc : Half) (isOpen seen : Bool) : State :=
  { State.reset with phase := .seq, ready := false, seqPc := pc, xferOpen := isOpen, xferSeen := seen }

/-- The block in WAIT. -/
def waiting (d : Byte) : State :=
  { State.reset with phase := .wait, ready := false, xferOpen := true, dlyCnt := d }

/-- The block after F12 of 95_test_vectors.md. -/
def faulted : State := configFaulted .unbalancedEnd (seqAt 0x0001 true false)

/-- The block between messages, with messages to come. -/
def idle (c : Config) (p : PState) (ms : List Message) : State :=
  { State.reset with cfg := c, pstate := p, msgs := ms }

/-- The ROM of CFG-A (95_test_vectors.md section 2). -/
def romA : List Byte :=
  [0x01, 0x03, 0xA0, 0x04, 0xA1, 0x04, 0x11, 0x22, 0x33, 0x44, 0xFE, 0x0A, 0x02, 0xFF]
  ++ [0x01, 0x03, 0xA0, 0x04, 0xA1, 0x04, 0x55, 0x66, 0x77, 0x88, 0xFE, 0x0A, 0x02, 0xFF]
  ++ [0x01, 0x04, 0xB0, 0x01, 0x01, 0x02, 0xFF] ++ [0x01, 0x04, 0xB0, 0x01, 0x00, 0xFE, 0x05, 0x02, 0xFF]
  ++ [0x01, 0x04, 0xD0, 0x01, 0xC0, 0x03, 0xD1, 0xFE, 0xFF, 0xFE, 0xFF, 0xFE, 0xFF, 0xFE, 0xFF, 0xFE, 0xFF, 0xFE, 0x19]
  ++ [0x04, 0xD0, 0x01, 0x00, 0x02, 0xFF]
  ++ [0x01, 0x04, 0xD0, 0x01, 0xC0, 0x03, 0xD2, 0xFE, 0xFF, 0xFE, 0xFF, 0xFE, 0xFF, 0xFE, 0xFF, 0xFE, 0xFF, 0xFE, 0xE1]
  ++ [0x04, 0xD0, 0x01, 0x00, 0x02, 0xFF] ++ [0x00, 0x00]

/-- CFG-A. -/
def cfgA : Config :=
  { Config.atReset with
    waveLen := 4
    waveFull := [0x55, 0x66, 0x77, 0x88]
    wavePartial := [0x11, 0x22, 0x33, 0x44]
    seqMem := memWriteBytes [] 0 romA
    seqMemSize := 0x60
    baseInitFull := 0x0E
    baseInitPartial := 0x00
    baseActive := 0x1C
    baseSleep := 0x23
    baseRefreshFull := 0x45
    baseRefreshPartial := 0x2C
    opColWindow := 0xC1
    opRowWindow := 0xC2
    opColCursor := 0xC3
    opRowCursor := 0xC4
    opRamWrite := 0xC5
    settleMsFull := 1500 }

def tile0 : Tile := ⟨0, 0, 0, 0⟩

/-- The tile of R222, at the pixel address of program P2. -/
def tileP2 : Tile := ⟨3, 0, 3, 0x1000⟩

/-! ### WellFormed refuses an ill-formed term for each of its checks -/

theorem test_wf_cmda_needs_an_argument : (Instr.cmda 0xA0 []).wf = false := by decide
theorem test_wf_cmda_has_at_most_255 : (Instr.cmda 0xA0 (List.replicate 256 0)).wf = false := by decide +kernel
theorem test_wf_cmda_ends : (Instr.cmda 0xA0 [7]).wf = true ∧ (Instr.cmda 0xA0 (List.replicate 255 0)).wf = true := by
  decide +kernel
theorem test_wf_reserved_is_not_defined : (Instr.reserved 0x01).wf = false ∧ (Instr.reserved 0x00).wf = true := by decide
theorem test_wf_unknown_is_not_recognised :
    (Instr.unknownTag 9 0 tile0).wf = false ∧ (Instr.unknownTag 14 0 tile0).wf = true := by decide

/-! ### Decoding: words written out from R71, R74 to R76, R84 -/

theorem test_decode_start : decode (.rom [0b00000001]) = .ok .start := by rfl
theorem test_decode_endx : decode (.rom [0b00000010]) = .ok .endx := by rfl
theorem test_decode_cmd : decode (.rom [0b00000011, 0x2A]) = .ok (.cmd 0x2A) := by rfl
theorem test_decode_cmda : decode (.rom [0b00000100, 0x3C, 0x02, 0x80, 0x01]) = .ok (.cmda 0x3C [0x80, 0x01]) := by rfl
theorem test_decode_cmda_255 :
    decode (.rom (0x04 :: 0x10 :: 0xFF :: List.replicate 255 0xFF)) = .ok (.cmda 0x10 (List.replicate 255 0xFF)) := by
  decide +kernel
theorem test_decode_dly : decode (.rom [0b11111110, 0xC8]) = .ok (.dly 200) := by rfl
theorem test_decode_end : decode (.rom [0b11111111]) = .ok .endSeq := by rfl
theorem test_decode_reserved :
    decode (.rom [0x00]) = .ok (.reserved 0x00) ∧ decode (.rom [0x05]) = .ok (.reserved 0x05) ∧
    decode (.rom [0xFD]) = .ok (.reserved 0xFD) := ⟨rfl, rfl, rfl⟩
theorem test_decode_setup : decode (.port ⟨0b00001001, 0, tile0⟩) = .ok (.setup 0 tile0) := by rfl
theorem test_decode_init : decode (.port ⟨0b00001010, 0, tile0⟩) = .ok (.init 0 tile0) := by rfl
theorem test_decode_powersave : decode (.port ⟨0b00001011, 1, tile0⟩) = .ok (.powersave 1 tile0) := by rfl
theorem test_decode_flip : decode (.port ⟨0b00001101, 1, tile0⟩) = .ok (.flip 1 tile0) := by rfl
theorem test_decode_draw : decode (.port ⟨0b00001111, 0, tileP2⟩) = .ok (.draw 0 tileP2) := by rfl
theorem test_decode_refresh : decode (.port ⟨0b00010000, 0, tile0⟩) = .ok (.refresh 0 tile0) := by rfl
theorem test_decode_unknown :
    decode (.port ⟨12, 0, tile0⟩) = .ok (.unknownTag 12 0 tile0) ∧
    decode (.port ⟨255, 0, tile0⟩) = .ok (.unknownTag 255 0 tile0) := ⟨rfl, rfl⟩
theorem test_decode_cut_short :
    decode (.rom []) = .error .noOpcodeByte ∧ decode (.rom [0x03]) = .error .missingOperand ∧
    decode (.rom [0x04, 0xA0, 0x05, 0x11]) = .error .missingArgs ∧
    decode (.rom [0x01, 0x02]) = .error .trailingBytes := ⟨rfl, rfl, rfl, rfl⟩
theorem test_assemble_R84 :
    assemble (expandSequence [.cmd 0xA1, .cmda 0xB2 [0x10, 0x20], .dly 100]) =
      [0x01, 0x03, 0xA1, 0x04, 0xB2, 0x02, 0x10, 0x20, 0xFE, 0x64, 0x02, 0xFF] := by decide
theorem test_wait_1300 :
    assemble (expandWait 1300) = [0xFE, 0xFF, 0xFE, 0xFF, 0xFE, 0xFF, 0xFE, 0xFF, 0xFE, 0xFF, 0xFE, 0x19] := by decide
theorem test_decode_table_words :
    decodeTableWord 8 0x01 = some .start ∧ decodeTableWord 8 0x04 = some (.cmda 0 []) ∧
    decodeTableWord 16 0xC8FE = some (.dly 200) ∧ decodeTableWord 8 0x0F = some (.draw 0 tile0) ∧
    decodeTableWord 8 0x05 = some (.reserved 5) := by decide +kernel
theorem test_fetch_word_runs_first :
    after (·.trace) (step (State.reset.withFetchWord 8 0x01)) = some [.startTransfer] ∧
    after (·.faultCause) (step (State.reset.withFetchWord 8 0x05)) = some .reservedOpcode ∧
    after (·.done) (step (State.reset.withFetchWord 8 0x09)) = some true := by decide +kernel

/-! ### The instructions: the rules' own examples -/

theorem test_start : after (fun t => (t.trace, t.xferOpen, t.seqPc)) (exec .start (seqAt 0x0010 false false)) =
    some ([.startTransfer], true, 0x0011) := by decide
theorem test_start_nested : after (fun t => (t.faultCause, t.faultPc)) (exec .start (seqAt 0x0001 true false)) =
    some (.nestedStart, 0x0001) := by decide
theorem test_endx : after (fun t => (t.trace, t.xferOpen, t.xferSeen, t.seqPc)) (exec .endx (seqAt 0x0020 true false)) =
    some ([.endTransfer], false, true, 0x0021) := by decide
theorem test_endx_twice : after (fun t => (t.faultCause, t.trace)) (exec .endx (seqAt 0x0002 false true)) =
    some (.unbalancedEndx, []) := by decide
theorem test_cmd : after (fun t => (t.trace, t.seqPc)) (exec (.cmd 0x2A) (seqAt 0x0001 true false)) =
    some ([.sendCommand 0x2A], 0x0003) := by decide
theorem test_cmd_outside : after (fun t => (t.faultCause, t.seqPc)) (exec (.cmd 0xA0) (seqAt 0x0000 false false)) =
    some (.outsideTransfer, 0x0000) := by decide
theorem test_cmda : after (fun t => (t.trace, t.seqPc)) (again (exec (.cmda 0x3C [0x80, 0x01])) (seqAt 0x0001 true false)) =
    some ([.sendCommand 0x3C, .sendArgs [0x80, 0x01]], 0x0006) := by decide
theorem test_cmda_I6 :
    after (·.seqPc) (again (exec (.cmda 0x10 (List.replicate 255 0))) (seqAt 0x0001 true false)) = some 0x0103 := by
  decide +kernel
theorem test_dly : after (fun t => (t.trace, t.phase, t.dlyCnt, t.seqPc)) (exec (.dly 0xC8) (seqAt 0x0001 true false)) =
    some ([.delay 200], .wait, 200, 0x0003) := by decide
theorem test_dly_0 : after (fun t => (t.trace, t.phase, t.dlyCnt)) (exec (.dly 0) (seqAt 0x0001 true false)) =
    some ([.delay 0], .seq, 0) := by decide
theorem test_end_goes_on :
    after (fun t => (t.trace, t.phase, t.seqPc, t.seqQ, t.xferSeen))
      (exec .endSeq { seqAt 0x000D false true with seqQ := [0x001C] }) = some ([], .seq, 0x001C, [], false) := by decide
theorem test_end_finishes_init :
    after (fun t => (t.pstate, t.ramValid, t.result, t.seqPc))
      (exec .endSeq { seqAt 0x0022 false true with pendPs := some .active, mTag := 10 }) =
    some (.active, true, true, 0x0022) := by decide
theorem test_reserved : after (fun t => (t.faultCause.code, t.faultPc, t.ready)) (exec (.reserved 0x00) (seqAt 0x0001 true false)) =
    some (1, 0x0001, false) := by decide

/-! ### The messages: vectors O1 to O19 -/

theorem test_setup_O1 : after (fun t => (t.result, t.trace, t.pstate)) (exec (.setup 0 tile0) (idle cfgA .uninit [])) =
    some (true, [], .uninit) := by decide
theorem test_init_O2 : after (fun t => (t.seqPc, t.seqQ, t.pendPs)) (exec (.init 0 tile0) (idle cfgA .uninit [])) =
    some (0x0000, [0x001C], some .active) := by decide
theorem test_init_O20 :
    after (·.seqPc) (exec (.init 0 tile0) (idle { cfgA with updateMode := .full } .uninit [])) = some 0x000E := by decide
theorem test_powersave_O5 : after (fun t => (t.seqPc, t.pendPs)) (exec (.powersave 0 tile0) (idle cfgA .active [])) =
    some (0x001C, some .active) := by decide
theorem test_powersave_O7 : after (fun t => (t.seqPc, t.pendPs)) (exec (.powersave 255 tile0) (idle cfgA .active [])) =
    some (0x0023, some .deepSleep) := by decide
theorem test_flip_O10 : after (fun t => (t.result, t.trace, t.pstate)) (exec (.flip 1 tile0) (idle cfgA .active [])) =
    some (true, [], .active) := by decide
theorem test_draw_O12 : after (fun t => (t.result, t.trace, t.done)) (exec (.draw 0 tileP2) (idle cfgA .deepSleep [])) =
    some (false, [], true) := by decide
theorem test_draw_R222 :
    after (fun t => (t.row, t.col, t.colEnd, t.phase, t.trace)) (again step (idle cfgA .active [⟨15, 0, tileP2⟩])) =
    some (24, 0x0018, 0x00C7, .drawWin, [.startTransfer]) := by decide
theorem test_refresh_O15 : after (fun t => (t.seqPc, t.pendPs)) (exec (.refresh 0 tile0) (idle cfgA .deepSleep [])) =
    some (0x002C, none) := by decide
theorem test_refresh_O21 :
    after (·.seqPc) (exec (.refresh 0 tile0) (idle { cfgA with updateMode := .full } .active [])) = some 0x0045 := by decide
theorem test_unknown_O16 : after (fun t => (t.result, t.trace, t.done)) (exec (.unknownTag 14 0 tile0) (idle cfgA .active [])) =
    some (false, [], true) := by decide

/-! ### Window, converter, sequences, reset -/

theorem test_window_W7 :
    let t := State.computeWindow
      { State.reset with cfg := { cfgA with tileH := 16, xOffset := 255, pixW := 65535 }, tX := 255, tY := 0 }
    (t.row, lo8 t.col, hi8 t.col, lo8 t.colEnd, hi8 t.colEnd) = (15, 0xF7, 0x08, 0xFE, 0xFF) := by decide
theorem test_window_W9 : windowRow cfgA 255 = 25 := by decide
theorem test_convert_T4 :
    convert ⟨0xA5, 0x5A, 0x3C, 0xC3, 0x0F, 0xF0, 0x99, 0x66⟩ = ⟨0x5A, 0xA5, 0xC3, 0x3C, 0xF0, 0x0F, 0x66, 0x99⟩ := by decide
theorem test_sequence_trace_P1 :
    sequenceTrace cfgA 0x0000 = [.startTransfer, .sendCommand 0xA0, .sendCommand 0xA1,
      .sendArgs [0x11, 0x22, 0x33, 0x44], .delay 10, .endTransfer] := by decide +kernel
theorem test_settle_time : sequenceDelay cfgA 0x002C = 1300 ∧ sequenceDelay cfgA 0x0045 = 1500 := by decide +kernel
theorem test_reset_X3 :
    after (fun t => (t.fault, t.faultCause, t.phase, t.ready)) (step { faulted with rst := some cfgA }) =
      some (false, .none, .idle, true) := by decide
theorem test_reset_X2 :
    after (fun t => (t.oldTraces, t.trace, t.dlyCnt))
      (step { waiting 255 with rst := some cfgA, trace := [.startTransfer, .delay 255] }) =
    some ([[.startTransfer, .delay 255]], [], 0) := by decide

/-- R283: RST between the SendCommand and the SendArgs of one CMDA. -/
theorem test_reset_inside_a_cmda :
    after (fun t => after (fun u => (u.oldTraces, u.trace, u.cmdSent)) (step { t with rst := some cfgA }))
      (exec (.cmda 0x3C [0x80]) (seqAt 0x0001 true false)) = some (some ([[.sendCommand 0x3C]], [], false)) := by decide

/-- R141: a bus that holds START's event once, and then accepts it. -/
theorem test_bus_holds :
    after (fun t => (t.trace, t.seqPc, t.bus)) (exec .start { seqAt 0x0010 false false with bus := [.after 1] }) =
      some ([], 0x0010, [.after 0]) ∧
    after (fun t => (t.trace, t.seqPc, t.bus)) (again (exec .start) { seqAt 0x0010 false false with bus := [.after 1] }) =
      some ([.startTransfer], 0x0011, []) := by decide

/-- U10: a bus that never accepts. -/
theorem test_bus_never_accepts :
    exec .start { seqAt 0x0010 false false with bus := [.never] } = .fault .busNeverAccepts := by rfl

/-! ### Witnesses of the obligations' hypotheses -/

theorem witness_ResetPutsEveryRegisterToItsResetValue :
    ({ faulted with rst := some cfgA } : State).rst = some cfgA ∧
    ({ waiting 255 with rst := some cfgA } : State).rst = some cfgA := ⟨rfl, rfl⟩

/-- ... and the clause on an empty host queue. -/
theorem witness_ResetAbandonsTheMessageAndWaits :
    ∃ t, step { faulted with rst := some cfgA } = .next t ∧ t.msgs = [] := ⟨_, rfl, rfl⟩

theorem witness_StartOpensTheBracketOrFaults :
    ((seqAt 0xFFFE false false).xferOpen = false ∧ (seqAt 0xFFFE false false).xferSeen = false) ∧
    ((seqAt 0xFFFF false false).xferOpen = false ∧ (seqAt 0xFFFF false false).xferSeen = false) ∧
    (seqAt 1 true false).xferOpen = true ∧
    ((seqAt 2 false true).xferOpen = false ∧ (seqAt 2 false true).xferSeen = true) ∧
    (seqAt 0xFFFF false false).busTakes = true ∧ ({ seqAt 0 false false with bus := [.after 0] } : State).busTakes = true := by
  decide

theorem witness_EndxClosesTheBracketOrFaults :
    (seqAt 0xFFFE true false).xferOpen = true ∧ (seqAt 0xFFFF true false).xferOpen = true ∧
    (seqAt 0xFFFF true false).busTakes = true ∧ (seqAt 0 false false).xferOpen = false := by decide

theorem witness_CmdSendsTheCommandByteOrFaults :
    (seqAt 0xFFFD true false).xferOpen = true ∧ (seqAt 0xFFFE true false).xferOpen = true ∧
    (seqAt 0xFFFE true false).busTakes = true ∧ (seqAt 0 false false).xferOpen = false := by decide

/-- Argument lists of 1 and of 255 bytes, and the empty one; with and without the SendCommand accepted. -/
theorem witness_CmdaSendsTheCommandThenItsArgumentsOrFaults :
    ((seqAt 1 true false).cmdSent = false ∧ (seqAt 1 true false).busTakes = true ∧
      (eventTaken (.sendCommand 0x3C) (seqAt 1 true false)).busTakes = true) ∧
    (let s : State := { seqAt 1 true false with cmdSent := true }
     s.xferOpen = true ∧ s.cmdSent = true ∧ s.busTakes = true) ∧
    (seqAt 1 true false).xferOpen = true ∧ (seqAt 1 false false).xferOpen = false ∧
    (∃ a : List Byte, a.length = 1 ∧ 1 ≤ a.length ∧ a.length ≤ 255) ∧
    (∃ a : List Byte, a.length = 255 ∧ 1 ≤ a.length ∧ a.length ≤ 255) ∧ (∃ a : List Byte, a = []) :=
  ⟨⟨rfl, rfl, rfl⟩, ⟨rfl, rfl, rfl⟩, rfl, rfl, ⟨[7], by decide⟩, ⟨List.replicate 255 7, by decide +kernel⟩, ⟨[], rfl⟩⟩

/-- Durations 0, 1 and 255. -/
theorem witness_DlyEmitsTheDelayAndLoadsTheCounterOrFaults :
    (seqAt 1 true false).xferOpen = true ∧ (seqAt 1 true false).busTakes = true ∧ (seqAt 1 false true).xferOpen = false ∧
    (0 : Byte) = 0 ∧ (1 : Byte) ≠ 0 ∧ (255 : Byte) ≠ 0 := by decide

theorem witness_EndHandsOverOrFaults :
    (seqAt 1 true false).xferOpen = true ∧
    ((seqAt 0 false false).xferOpen = false ∧ (seqAt 0 false false).xferSeen = false) ∧
    (let s : State := { seqAt 13 false true with seqQ := [0x1C] }
     s.xferOpen = false ∧ s.xferSeen = true ∧ s.seqQ = 0x1C :: []) ∧
    ((seqAt 34 false true).xferOpen = false ∧ (seqAt 34 false true).xferSeen = true ∧ (seqAt 34 false true).seqQ = []) := by
  decide

/-- The latch of each clause of the statement about RAM_VALID. -/
theorem witness_FinishTracksRamValid :
    ({ State.reset with mTag := 10 } : State).mTag = 10 ∧
    (let s : State := { State.reset with mTag := 11, mArg := 1 }; s.mTag = 11 ∧ s.mArg ≠ 0) ∧
    (let s : State := { State.reset with mTag := 11, mArg := 255 }; s.mTag = 11 ∧ s.mArg ≠ 0) ∧
    (let s : State := { State.reset with mTag := 11, mArg := 0 }; s.mTag = 11 ∧ s.mArg = 0) ∧
    (let s : State := { State.reset with mTag := 16 }; s.mTag ≠ 10 ∧ s.mTag ≠ 11) := by decide

/-- The ends of the two reserved ranges, and counts of 1 and 255. -/
theorem witness_OpcodeMapAndReservedEncodings :
    (∀ b ∈ ([0x00, 0x05, 0xFD] : List Byte), b ∉ ([0x01, 0x02, 0x03, 0x04, 0xFE, 0xFF] : List Byte)) ∧
    (∃ (n : Nat) (args : List Byte), n = 1 ∧ 1 ≤ n ∧ n ≤ 255 ∧ args.length = n) ∧
    (∃ (n : Nat) (args : List Byte), n = 255 ∧ 1 ≤ n ∧ n ≤ 255 ∧ args.length = n) :=
  ⟨by decide, ⟨1, [7], by decide⟩, ⟨255, List.replicate 255 7, by decide +kernel⟩⟩

/-- SETUP, FLIP, INIT, POWERSAVE and REFRESH at the port, in every PSTATE. -/
theorem witness_messages_at_the_port :
    ∀ p ∈ [PState.uninit, .active, .psLight, .deepSleep], (idle cfgA p []).phase = .idle ∧ (idle cfgA p []).ready = true := by
  decide

theorem witness_UnknownTagFails :
    ∀ tag ∈ ([0, 8, 12, 14, 17, 255] : List Byte), recognisedTag tag = false ∧
      (idle cfgA .active []).phase = .idle ∧ (idle cfgA .active []).ready = true := by decide

theorem witness_PowersaveStartsTheSequenceOfItsArgument :
    (idle cfgA .active []).phase = .idle ∧ (idle cfgA .active []).ready = true ∧
    (0 : Byte) = 0 ∧ (1 : Byte) ≠ 0 ∧ (255 : Byte) ≠ 0 := by decide

theorem witness_DrawIsRefusedInDeepSleepAndUninit :
    (∀ p ∈ [PState.deepSleep, .uninit], (idle cfgA p []).phase = .idle ∧ (idle cfgA p []).ready = true ∧
      ((idle cfgA p []).pstate = .deepSleep ∨ (idle cfgA p []).pstate = .uninit)) ∧
    (∀ p ∈ [PState.active, .psLight], (idle cfgA p []).phase = .idle ∧ (idle cfgA p []).ready = true ∧
      ((idle cfgA p []).pstate = .active ∨ (idle cfgA p []).pstate = .psLight)) := by decide

/-- The block in DRAW_WIN, its StartTransfer presented. -/
def opening (c : Config) (y : Byte) : State :=
  { State.reset with cfg := c, pstate := .active, phase := .drawWin, ready := false, mTag := 15, tX := 3, tY := y, tCnt := 3 }

/-- ... with PIX_W at its least value too, and a tile row outside the panel. -/
theorem witness_DrawOpensTheBracketAndComputesTheWindow :
    ∀ s ∈ [opening cfgA 0, opening cfgA 255, opening { cfgA with pixW := 1 } 24],
      s.rst = none ∧ s.phase = .drawWin ∧ s.xferOpen = false ∧ s.busTakes = true ∧ 1 ≤ s.cfg.pixW.toNat := by decide

theorem witness_MessageWaitsWhileTheBlockIsBusy :
    ¬((waiting 7).phase = .idle ∧ (waiting 7).ready = true) ∧ ¬(faulted.phase = .idle ∧ faulted.ready = true) := by decide

theorem witness_BusyStepsLeaveTheHostPortAlone :
    ∃ s t : State, s.rst = none ∧ s.ready = false ∧ step s = .next t := ⟨waiting 7, _, rfl, rfl, rfl⟩

/-- REFRESH with another argument and tile; POWERSAVE with another tile; DRAW with another argument. -/
theorem witness_IgnoredOperandsReachOnlyTheLatch :
    ∀ m ∈ [((16 : Byte), (0 : Byte), (9 : Byte), tile0, tileP2), (11, 5, 5, tile0, tileP2), (15, 0, 9, tileP2, tileP2)],
      (idle cfgA .active []).phase = .idle ∧ (idle cfgA .active []).ready = true ∧
      (m.1 = 11 → m.2.2.1 = m.2.1) ∧ (m.1 = 15 → m.2.2.2.2 = m.2.2.2.1) ∧
      (nextOf (exec (decodeMsg ⟨m.1, m.2.1, m.2.2.2.1⟩) (idle cfgA .active []))).isSome = true := by decide +kernel

/-- The CMDA of vector I3 at address 1. -/
theorem witness_StepRunsTheInstructionAtSeqPc :
    let s : State := { seqOn [0x01, 0x04, 0x7E, 0x01, 0xFF, 0x02, 0xFF] true false with seqPc := 1 }
    let i : Instr := .cmda 0x7E [0xFF]
    s.rst = none ∧ s.phase = .seq ∧ s.pcPastTop = false ∧ i.inRom = true ∧ i.wf = true ∧
      memReadSeq s.cfg s.seqPc.toNat i.len = some (romBytes i) := by decide +kernel

theorem witness_StepRunsTheMessageOnThePort :
    let s := idle cfgA .active [⟨16, 0, tile0⟩]
    s.rst = none ∧ s.phase = .idle ∧ s.ready = true ∧ s.msgs = ⟨16, 0, tile0⟩ :: [] := ⟨rfl, rfl, rfl, rfl⟩

/-- A read that ends at SEQ_MEM_SIZE, and one that ends one byte later. -/
theorem witness_SeqReadStaysInsideTheRom :
    0x5F + 1 ≤ cfgA.seqMemSize ∧ cfgA.seqMemSize < 0x5F + 2 := by decide

/-- A byte of the ROM, counted from SEQ_PC. -/
def romByte (s : State) (k : Nat) : Byte := memRead s.cfg.seqMem (s.seqPc.toNat + k)

/-- The hypotheses of `ChecksComeInTheOrderOfR108`, with the opcode byte at SEQ_PC. -/
def Fetches (b : Byte) (s : State) : Bool :=
  decide (s.rst = none) && decide (s.phase = .seq) && !s.pcPastTop && decide (s.seqPc.toNat < s.cfg.seqMemSize)
    && decide (romByte s 0 = b)

/-- Off the end of the ROM (vector F4). -/
theorem witness_ChecksComeInTheOrderOfR108_end :
    let s : State := { seqOn [0x01, 0x02] false true with seqPc := 2 }
    s.rst = none ∧ s.phase = .seq ∧ s.pcPastTop = false ∧ s.cfg.seqMemSize ≤ s.seqPc.toNat := by decide

/-- A state for each further clause, the bytes those of the vectors F1 to F14 from the faulting instruction on. -/
theorem witness_ChecksComeInTheOrderOfR108 :
    (Fetches 0x05 (seqOn [0x05] false false) = true ∧ definedOpcode 0x05 = false) ∧
    (Fetches 0x03 (seqOn [0x03] true false) = true ∧ (seqOn [0x03] true false).cfg.seqMemSize ≤ 0 + 1) ∧
    (Fetches 0xFE (seqOn [0xFE] true false) = true ∧ (seqOn [0xFE] true false).cfg.seqMemSize ≤ 0 + 1) ∧
    (Fetches 0x04 (seqOn [0x04, 0xA0] true false) = true ∧ (seqOn [0x04, 0xA0] true false).cfg.seqMemSize < 0 + 3) ∧
    (Fetches 0x04 (seqOn [0x04, 0xA0, 0x00] false false) = true ∧ romByte (seqOn [0x04, 0xA0, 0x00] false false) 2 = 0 ∧
      0 + 3 ≤ (seqOn [0x04, 0xA0, 0x00] false false).cfg.seqMemSize) ∧
    (Fetches 0x04 (seqOn [0x04, 0xA0, 0x05, 0x11] false false) = true ∧
      romByte (seqOn [0x04, 0xA0, 0x05, 0x11] false false) 2 = 5 ∧
      (seqOn [0x04, 0xA0, 0x05, 0x11] false false).cfg.seqMemSize < 0 + 3 + 5) ∧
    (Fetches 0x04 (seqOn [0x04, 0xA0, 0x01, 0x11] false false) = true ∧
      romByte (seqOn [0x04, 0xA0, 0x01, 0x11] false false) 2 = 1 ∧
      0 + 3 + 1 ≤ (seqOn [0x04, 0xA0, 0x01, 0x11] false false).cfg.seqMemSize ∧
      (seqOn [0x04, 0xA0, 0x01, 0x11] false false).xferOpen = false) ∧
    (Fetches 0x03 (seqOn [0x03, 0xA0] false false) = true ∧ 0 + 2 ≤ (seqOn [0x03, 0xA0] false false).cfg.seqMemSize) ∧
    (Fetches 0xFE (seqOn [0xFE, 0x05] false true) = true ∧ 0 + 2 ≤ (seqOn [0xFE, 0x05] false true).cfg.seqMemSize) ∧
    (Fetches 0x01 (seqOn [0x01] true false) = true ∧ (seqOn [0x01] true false).xferOpen = true) ∧
    (Fetches 0x01 (seqOn [0x01] false true) = true ∧ (seqOn [0x01] false true).xferSeen = true) ∧
    (Fetches 0x02 (seqOn [0x02] false false) = true ∧ (seqOn [0x02] false false).xferOpen = false) ∧
    (Fetches 0xFF (seqOn [0xFF] true false) = true ∧ (seqOn [0xFF] true false).xferOpen = true) ∧
    (Fetches 0xFF (seqOn [0xFF] false false) = true ∧ (seqOn [0xFF] false false).xferSeen = false) := by decide +kernel

/-- The causes those states record: vectors F4, F1, F3, F5, F13, F14, F9, F10, F6, F7, F8, F12, F11. -/
theorem test_fault_causes :
    [ ({ seqOn [0x01, 0x02] false true with seqPc := 2 } : State), seqOn [0x05] false false, seqOn [0x03] true false
    , seqOn [0x04, 0xA0, 0x00] true false, seqOn [0x04, 0xA0, 0x00] false false, seqOn [0x04, 0xA0, 0x05, 0x11] false false
    , seqOn [0x03, 0xA0] false false, seqOn [0xFE, 0x05] false true, seqOn [0x01] true false, seqOn [0x01] false true
    , seqOn [0x02] false false, seqOn [0xFF] true false, seqOn [0xFF] false false ].map
      (fun s => after (·.faultCause.code) (step s)) =
    [2, 1, 2, 3, 3, 2, 7, 7, 4, 5, 6, 8, 8].map some := by decide +kernel

theorem witness_SeqPcNeverWraps :
    let s : State := { seqAt 0 true false with pcPastTop := true }
    s.rst = none ∧ s.phase = .seq ∧ s.pcPastTop = true ∧ s.cfg.seqMemSize ≤ 65536 := by decide

/-- Counters of 1 and of 255 ticks; a tick count inside each. -/
theorem witness_DelayCounterCountsDownToZero :
    (∀ d ∈ ([1, 255] : List Byte), (waiting d).rst = none ∧ (waiting d).phase = .wait ∧ (waiting d).dlyCnt ≠ 0) ∧
    0 < (waiting 1).dlyCnt.toNat ∧ 254 < (waiting 255).dlyCnt.toNat := by decide

theorem witness_FaultedHasNoStepButReset :
    (faulted.phase = .faulted ∧ faulted.rst = none) ∧
    (let s : State := { faulted with rst := some cfgA }; s.phase = .faulted ∧ s.rst = some cfgA) := ⟨⟨rfl, rfl⟩, rfl, rfl⟩

/-- T_Y 0, TILE_H - 1 and TILE_H under TILE_H = 25. -/
theorem witness_WindowRowInvertsTheTileRow :
    (let s : State := { State.reset with tY := 0 }; s.tY.toNat < s.cfg.tileH.toNat ∧ s.cfg.tileH = 25 ∧ s.tY = 0) ∧
    (let s : State := { State.reset with tY := 24 }; s.tY.toNat < s.cfg.tileH.toNat ∧ s.tY.toNat + 1 = s.cfg.tileH.toNat) ∧
    (let s : State := { State.reset with tY := 25 }; s.cfg.tileH = 25 ∧ s.tY = 25) := by decide

theorem witness_WindowColumnsAreExact :
    (let s : State := { State.reset with tX := 3 }; s.tX = 3 ∧ s.cfg.xOffset = 0 ∧ s.cfg.pixW = 200) ∧
    (let s : State := { State.reset with cfg := { cfgA with pixW := 1 } }; 1 ≤ s.cfg.pixW.toNat) ∧
    (let s : State := { State.reset with cfg := { cfgA with pixW := 0xFFFF } }; 1 ≤ s.cfg.pixW.toNat) := by decide

/-- A block in DRAW_DATA, its buffer ending at 2^32 and one byte later. -/
def drawing (ptr : Nat) : State :=
  { State.reset with
    pstate := .active, phase := .drawData, ready := false, xferOpen := true, mTag := 15, tCnt := 1, tPtr := ptr, cfg := cfgA }

/-- The same block with its conversion in SCRATCH and its SendData due. -/
def sending (ptr : Nat) : State :=
  { drawing ptr with scratch := convert (pixBlock [] ptr), blockDue := true }

theorem witness_DataStepSendsOneConvertedBlock :
    (let s := drawing (2 ^ 32 - 8)
     s.rst = none ∧ s.phase = .drawData ∧ s.blockDue = false ∧ s.blkIdx.toNat < s.tCnt.toNat ∧ s.busTakes = true ∧
       s.tPtr + 8 * s.blkIdx.toNat + 8 ≤ 2 ^ s.cfg.paWidth) ∧
    (let s := drawing (2 ^ 32 - 7)
     s.rst = none ∧ s.phase = .drawData ∧ s.blockDue = false ∧ s.blkIdx.toNat < s.tCnt.toNat ∧
       2 ^ s.cfg.paWidth < s.tPtr + 8 * s.blkIdx.toNat + 8) ∧
    (let s := sending (2 ^ 32 - 8)
     s.rst = none ∧ s.phase = .drawData ∧ s.blockDue = true ∧ s.busTakes = true) := by decide +kernel

/-- R35, R181: SCRATCH holds the converted block while the bus holds its SendData (the bytes of an unlisted memory are 0). -/
theorem test_scratch_before_send :
    after (fun t => (t.scratch.b0, t.presented, t.trace)) (again step { drawing 0x1000 with bus := [.after 2] }) =
      some (0xFF, some (.sendData ⟨0xFF, 0xFF, 0xFF, 0xFF, 0xFF, 0xFF, 0xFF, 0xFF⟩), []) := by decide +kernel

/-- A bus that holds its first and its third event for some steps. -/
def slowBus : List BusReply := [.after 3, .after 0, .after 1]

/-- Tiles of 0, 3 and 255 blocks, the last one ending at 2^32, on a slow bus. -/
theorem witness_DrawTileEmitsOneBracketAndSucceeds :
    ∀ tile ∈ [(⟨255, 255, 0, 0⟩ : Tile), tileP2, ⟨0, 0, 255, 2 ^ 32 - 2040⟩],
      let m : Message := ⟨15, 0, tile⟩
      let s : State := { idle cfgA .active [m] with bus := slowBus }
      Offered m [] s ∧ m.tag = 15 ∧ s.busAnswers = true ∧ s.pstate ≠ .deepSleep ∧ s.pstate ≠ .uninit ∧
        tileFits s.cfg m.tile = true := by
  intro tile h
  refine ⟨⟨rfl, rfl, rfl, rfl, rfl, rfl, rfl⟩, rfl, rfl, by simp [idle], by simp [idle], ?_⟩
  revert tile
  decide +kernel

theorem witness_DrawTileWorkedExample :
    ∀ p ∈ [0x1000, 2 ^ 32 - 24],
      let s := idle cfgA .active [⟨15, 0, ⟨3, 0, 3, p⟩⟩]
      Offered ⟨15, 0, ⟨3, 0, 3, p⟩⟩ [] s ∧ s.busAnswers = true ∧ s.pstate = .active ∧ s.cfg.tileH = 25 ∧
        s.cfg.pixW = 200 ∧ s.cfg.xOffset = 0 ∧ p + 24 ≤ 2 ^ s.cfg.paWidth := by
  intro p h
  refine ⟨⟨rfl, rfl, rfl, rfl, rfl, rfl, rfl⟩, rfl, rfl, rfl, rfl, rfl, ?_⟩
  revert p
  decide

/-- A block about to run the END of Init's second sequence. -/
def atEndOfInit : State :=
  { State.reset with
    cfg := cfgA, phase := .seq, ready := false, seqPc := 0x22, xferSeen := true, pendPs := some .active, mTag := 10 }

/-- What atEndOfInit goes on to. -/
theorem atEndOfInit_step : step atEndOfInit = .next (atEndOfInit.finish true) := by
  have h : fetchInstr atEndOfInit.cfg atEndOfInit.fetchAddr = some .endSeq := by decide +kernel
  show stepSeq atEndOfInit = _
  unfold stepSeq
  rw [h]
  rfl

/-- The invariant's one clause that is no plain decision, where no SendArgs is due. -/
theorem not_due {s : State} {p : Prop} (h : s.cmdSent = false) : s.cmdSent = true → p := by
  intro h'; rw [h] at h'; cases h'

/-- A state in SEQ, one in WAIT, one in DRAW_WIN, one in DRAW_DATA before and after a conversion, and one with a SendArgs
due meet the invariant. -/
theorem atEndOfInit_inv : Inv atEndOfInit := by
  constructor
  case argsDue => exact not_due rfl
  all_goals decide +kernel

theorem waiting_inv : Inv (waiting 7) := by
  constructor
  case argsDue => exact not_due rfl
  all_goals decide +kernel

theorem opening_inv : Inv (opening cfgA 0) := by
  constructor
  case argsDue => exact not_due rfl
  all_goals decide +kernel

theorem drawing_inv : Inv (drawing 0x1000) := by
  constructor
  case argsDue => exact not_due rfl
  all_goals decide +kernel

theorem sending_inv : Inv (sending 0x1000) := by
  constructor
  case argsDue => exact not_due rfl
  case dataDue => exact fun _ => ⟨rfl, by decide, pixBlock [] 0x1000, by decide +kernel, rfl⟩
  all_goals decide +kernel

/-- A block whose CMDA, the one of vector I3, has its SendArgs due. -/
def argsNext : State :=
  { seqOn [0x01, 0x04, 0x7E, 0x01, 0xFF, 0x02, 0xFF] true false with seqPc := 1, cmdSent := true }

theorem argsNext_fetch : fetchInstr argsNext.cfg argsNext.fetchAddr = some (.cmda 0x7E [0xFF]) := by decide +kernel

theorem argsNext_inv : Inv argsNext := by
  constructor
  case argsDue => exact fun _ => .inl ⟨rfl, rfl, 0x7E, [0xFF], by simp, argsNext_fetch⟩
  all_goals decide +kernel

theorem witness_EveryStepKeepsTheInvariant :
    (∃ t, Inv atEndOfInit ∧ step atEndOfInit = .next t) ∧ (∃ t, Inv (waiting 7) ∧ step (waiting 7) = .next t) ∧
    (∃ t, Inv (opening cfgA 0) ∧ step (opening cfgA 0) = .next t) ∧
    (∃ t, Inv (drawing 0x1000) ∧ step (drawing 0x1000) = .next t) ∧
    (∃ t, Inv (sending 0x1000) ∧ step (sending 0x1000) = .next t) ∧ Inv argsNext :=
  ⟨⟨_, atEndOfInit_inv, atEndOfInit_step⟩, ⟨_, waiting_inv, rfl⟩, ⟨_, opening_inv, rfl⟩, ⟨_, drawing_inv, rfl⟩, ⟨_, sending_inv, rfl⟩, argsNext_inv⟩

theorem witness_EveryStepKeepsTheBracketDiscipline :
    ∃ s t : State, Inv s ∧ bracketScan false s.trace = some s.xferOpen ∧ step s = .next t :=
  ⟨atEndOfInit, _, atEndOfInit_inv, rfl, atEndOfInit_step⟩

/-- In every phase that presents events, a state that presents one, on a bus that never accepts, one that holds and one that
takes; and a state that presents none. -/
theorem witness_BusHoldsEachEventUntilItIsAccepted :
    (∀ b ∈ [[BusReply.never], [.after 1], [.after 0], []],
      (({ opening cfgA 0 with bus := b } : State).presented = some .startTransfer ∧
        ({ opening cfgA 0 with bus := b } : State).rst = none) ∧
      ({ sending 0x1000 with bus := b } : State).presented = some (.sendData (convert (pixBlock [] 0x1000))) ∧
      ({ drawing 0x1000 with phase := .drawEnd, bus := b } : State).presented = some .endTransfer ∧
      instrEvent .start { seqAt 0 false false with bus := b } = some .startTransfer ∧
      instrEvent (.cmda 0x3C [1]) { seqAt 0 true false with bus := b } = some (.sendCommand 0x3C) ∧
      instrEvent (.cmda 0x3C [1]) { seqAt 0 true false with bus := b, cmdSent := true } = some (.sendArgs [1])) ∧
    argsNext.presented = some (.sendArgs [0xFF]) ∧ (waiting 7).presented = none ∧
    instrEvent .endSeq (seqAt 0 false true) = none := by
  refine ⟨by decide +kernel, ?_, rfl, rfl⟩
  show (match fetchInstr argsNext.cfg argsNext.fetchAddr with | some i => instrEvent i argsNext | none => none) = _
  rw [argsNext_fetch]; rfl

/-- Steps in SEQ, WAIT and DRAW_DATA. -/
theorem witness_EveryEventComesFromItsPart :
    (∃ t, atEndOfInit.rst = none ∧ step atEndOfInit = .next t) ∧
    (∃ t, (waiting 7).rst = none ∧ step (waiting 7) = .next t) ∧
    (∃ t, (sending 0).rst = none ∧ step (sending 0) = .next t) :=
  ⟨⟨_, rfl, atEndOfInit_step⟩, ⟨_, rfl, rfl⟩, ⟨_, rfl, rfl⟩⟩

theorem witness_NoStepWritesConfigurationOrMemory :
    ∃ t, (drawing 0).rst = none ∧ step (drawing 0) = .next t := ⟨_, rfl, rfl⟩

theorem witness_PStateChangesOnlyAtASuccessfulEnd :
    ∃ s t : State, s.rst = none ∧ step s = .next t ∧ t.pstate ≠ s.pstate :=
  ⟨atEndOfInit, _, rfl, atEndOfInit_step, by decide⟩

theorem witness_NoStepEntersPsLight :
    ∃ s t : State, s.pstate ≠ .psLight ∧ s.pendPs ≠ some .psLight ∧ step s = .next t :=
  ⟨atEndOfInit, _, by decide, by decide, atEndOfInit_step⟩

/-- A step with FAULT set before it, and one (vector F1) that sets it. -/
theorem witness_FaultIsStickyAndPrecise :
    (∃ s t : State, s.rst = none ∧ step s = .next t ∧ s.fault = true) ∧
    (∃ s t : State, s.rst = none ∧ step s = .next t ∧ s.fault = false ∧ t.fault = true) :=
  ⟨⟨{ waiting 7 with fault := true }, _, rfl, rfl, rfl⟩, ⟨seqOn [0x05] false false, _, rfl, rfl, rfl, rfl⟩⟩

/-- A state whose step goes on, and one whose step faults. -/
theorem witness_RamValidNeverChangesBehaviour :
    (∃ t, step (waiting 7) = .next t) ∧ (∃ r, step faulted = .fault r) := ⟨⟨_, rfl⟩, ⟨_, rfl⟩⟩

/-- The END of Init, and that of SetPowerSave with a nonzero argument. -/
theorem witness_RamValidFollowsInitAndDeepSleep :
    (∃ s t : State, Inv s ∧ s.rst = none ∧ step s = .next t ∧ t.ramValid ≠ s.ramValid) ∧
    (fetchInstr atEndOfInit.cfg atEndOfInit.fetchAddr = some .endSeq ∧ atEndOfInit.xferOpen = false ∧
      atEndOfInit.xferSeen = true ∧ atEndOfInit.seqQ = [] ∧ atEndOfInit.mTag = 10) ∧
    (let s : State := { atEndOfInit with seqPc := 0x2B, mTag := 11, mArg := 1, ramValid := true, pendPs := some .deepSleep }
     fetchInstr s.cfg s.fetchAddr = some .endSeq ∧ s.xferOpen = false ∧ s.xferSeen = true ∧ s.seqQ = [] ∧ s.mTag = 11 ∧
       s.mArg ≠ 0) :=
  ⟨⟨atEndOfInit, _, atEndOfInit_inv, rfl, atEndOfInit_step, by decide⟩, by decide +kernel, by decide +kernel⟩

/-- RAM_VALID after those two steps. -/
theorem test_ram_valid_after_the_end :
    after (·.ramValid) (step atEndOfInit) = some true ∧
    after (·.ramValid)
      (step { atEndOfInit with seqPc := 0x2B, mTag := 11, mArg := 1, ramValid := true, pendPs := some .deepSleep }) =
      some false := by decide +kernel

/-- The block about to run a sequence of CFG-A. -/
def atBase (base : Half) : State := { State.reset with cfg := cfgA, phase := .seq, ready := false, seqPc := base }

theorem wf_cfgA : wfSequence cfgA 0x2C = true ∧ wfSequence cfgA 0x5E = false := by decide +kernel

theorem witness_WellFormedSequenceRunsToItsEnd :
    AtSequence 0x2C (atBase 0x2C) ∧ (atBase 0x2C).busAnswers = true ∧ (atBase 0x2C).cfg.seqMemSize ≤ 65536 ∧ wfSequence (atBase 0x2C).cfg 0x2C = true :=
  ⟨⟨rfl, rfl, rfl, rfl, rfl, rfl, rfl⟩, rfl, by decide, wf_cfgA.1⟩

theorem witness_StoredSequenceFaultsExactlyWhenMalformed :
    (∀ base : Half, AtSequence base (atBase base) ∧ (atBase base).busAnswers = true ∧ (atBase base).ready = false ∧ (atBase base).done = false ∧
      (atBase base).fault = false ∧ (atBase base).cfg.seqMemSize ≤ 65536) ∧
    wfSequence (atBase 0x2C).cfg 0x2C = true ∧ wfSequence (atBase 0x5E).cfg 0x5E = false :=
  ⟨fun _ => ⟨⟨rfl, rfl, rfl, rfl, rfl, rfl, rfl⟩, rfl, rfl, rfl, rfl, (by decide : cfgA.seqMemSize ≤ 65536)⟩, wf_cfgA⟩

theorem premises_cfgA : configPremises cfgA = true := by decide +kernel

/-- Every recognised tag, with the tile of P2, and an unknown one. -/
theorem witness_StepLevelAgreesWithMessageLevel :
    ∀ tag ∈ ([9, 10, 11, 13, 15, 16, 14] : List Byte),
      let m : Message := ⟨tag, 0, tileP2⟩
      let s := idle cfgA .active [m]
      Offered m [] s ∧ configPremises s.cfg = true ∧ s.busAnswers = true ∧ (m.tag = 15 → tileFits s.cfg m.tile = true) := by
  intro tag _
  exact ⟨⟨rfl, rfl, rfl, rfl, rfl, rfl, rfl⟩, premises_cfgA, rfl, fun _ => (by decide +kernel : tileFits cfgA tileP2 = true)⟩

/-- ... and SetPowerSave with a nonzero argument, for the same hypotheses. -/
theorem witness_PowerStateTransitionTable :
    ∀ m ∈ [(⟨11, 0, tile0⟩ : Message), ⟨11, 1, tile0⟩, ⟨11, 255, tile0⟩, ⟨15, 0, tileP2⟩, ⟨14, 0, tile0⟩],
      let s := idle cfgA .active [m]
      Offered m [] s ∧ configPremises s.cfg = true ∧ s.busAnswers = true ∧ (m.tag = 15 → tileFits s.cfg m.tile = true) := by
  intro m h
  refine ⟨⟨rfl, rfl, rfl, rfl, rfl, rfl, rfl⟩, premises_cfgA, rfl, ?_⟩
  revert m
  decide +kernel

theorem witness_EachMessageEmitsItsNumberOfBrackets : allSequencesWf cfgA = true := by decide +kernel

theorem witness_RefreshHoldsReadyForTheSettleTime :
    let m : Message := ⟨16, 0, tile0⟩
    let s := idle cfgA .active [m]
    Offered m [] s ∧ configPremises s.cfg = true ∧ s.busAnswers = true ∧ m.tag = 16 :=
  ⟨⟨rfl, rfl, rfl, rfl, rfl, rfl, rfl⟩, premises_cfgA, rfl, rfl⟩

theorem witness_DecodeOfEncodeIsTheInstruction :
    (Instr.cmda 0xA1 [0x11]).wf = true ∧ (Instr.reserved 0xFD).wf = true ∧ (Instr.draw 0 tileP2).wf = true := by decide

theorem witness_EncodeOfDecodeIsTheCode :
    decode (.rom [0x04, 0xB2, 0x02, 0x10, 0x20]) = .ok (.cmda 0xB2 [0x10, 0x20]) ∧
    decode (.rom [0x04, 0xB2, 0x00]) = .ok (.cmda 0xB2 []) := ⟨rfl, rfl⟩

theorem witness_InstructionLengthComesFromItsOwnBytes :
    ∀ i ∈ [Instr.start, .endx, .endSeq, .cmd 0xFF, .dly 0xFF, .cmda 0xFF [0xFF]],
      i.inRom = true ∧ i.wf = true ∧ (∀ b, i ≠ .reserved b) := by
  intro i h
  simp only [List.mem_cons, List.not_mem_nil, or_false] at h
  rcases h with rfl | rfl | rfl | rfl | rfl | rfl <;> exact ⟨rfl, rfl, by simp⟩

theorem witness_WaitSplitsIntoTheFewestDelays :
    ∃ l : List Instr, (∀ i ∈ l, ∃ d, i = .dly d) ∧ delaySum l = 300 := ⟨[.dly 200, .dly 100], by simp, by decide⟩

/-- The sequence of R84, at address 0 of a ROM that holds it. -/
theorem witness_SequenceFormIsWellFormed :
    let body := [Instr.cmd 0xA1, .cmda 0xB2 [0x10, 0x20], .dly 100]
    let c := (seqOn (assemble (expandSequence body)) false false).cfg
    (∀ i ∈ body, isBody i = true ∧ i.wf = true) ∧
      memReadSeq c (0 : Half).toNat (assemble (expandSequence body)).length = some (assemble (expandSequence body)) := by
  decide +kernel

end Sys2Proof.Tests
end

section
/-!
PROOF. The invariant of the block's state is kept by every step (10_state.md R21 to R38).

`Quiet` is what `Inv` says of a block with no bracket open and nothing under way, apart from PHASE and the handshake
registers. A message begins and ends in a quiet state, so the steps that begin a sequence or a tile, or end the message,
are steps from a quiet state to one that meets `Inv`.
-/
namespace Sys2Proof.Machine

/-! ### A block with nothing under way -/

/-- No bracket is open, no fault is recorded, and no delay, burst, SendArgs or SendData is under way. -/
structure Quiet (s : State) : Prop where
  romWf : memWf s.cfg.seqMem = true
  rstWf : ∀ c, s.rst = some c → memWf c.seqMem = true
  pixWf : memWf s.pix = true
  noFault : s.fault = false
  noCause : s.faultCause = .none
  noDelay : s.dlyCnt = 0
  closed : s.xferOpen = false
  queueShort : s.seqQ.length ≤ 2
  ptrWidth : s.tPtr < 2 ^ s.cfg.paWidth
  noBurst : s.burst = []
  noArgsDue : s.cmdSent = false
  noDataDue : s.blockDue = false

/-- A SendArgs is due only inside a bracket. -/
theorem Inv.cmdSent_eq_false_of_closed {s : State} (h : Inv s) (ho : s.xferOpen = false) : s.cmdSent = false := by
  by_contra hc
  rcases h.argsDue (by simpa using hc) with ⟨-, hopen, -⟩ | ⟨-, w, ws, hw, -⟩
  · simp [ho] at hopen
  · have := (h.burstWin.mp (by simp [hw])).2
    simp [ho] at this

/-- In SEQ a SendArgs is due only of the CMDA at SEQ_PC. -/
theorem Inv.cmdSent_eq_false_of_fetch {s : State} (h : Inv s) (hp : s.phase = .seq)
    (hf : ∀ op args, args ≠ [] → fetchInstr s.cfg s.fetchAddr ≠ some (.cmda op args)) : s.cmdSent = false := by
  by_contra hc
  rcases h.argsDue (by simpa using hc) with ⟨-, -, op, args, ha, hf'⟩ | ⟨hw, -⟩
  · exact hf op args ha hf'
  · simp [hp] at hw

/-- A SendData is due only in the data phase. -/
theorem Inv.blockDue_eq_false {s : State} (h : Inv s) (hp : s.phase ≠ .drawData) : s.blockDue = false := by
  by_contra hd
  exact hp (h.dataDue (by simpa using hd)).1

/-- The registers of the handshake and of the fault while a message runs. -/
theorem Inv.of_busy {s : State} (h : Inv s) (hi : s.phase ≠ .idle) (hf : s.phase ≠ .faulted) :
    s.ready = false ∧ s.done = false ∧ s.fault = false ∧ s.faultCause = .none := by
  have hfault : s.fault = false := by simpa [hf] using h.faultFaulted
  refine ⟨by simpa [hi] using h.readyIdle, ?_, hfault, by simpa [hfault] using h.causeFault⟩
  by_contra hd
  exact hi (h.doneIdle (by simpa using hd))

/-- With its bracket closed, a block that is not stopped is quiet. -/
theorem Inv.quiet {s : State} (h : Inv s) (hf : s.phase ≠ .faulted) (ho : s.xferOpen = false) : Quiet s := by
  have hfault : s.fault = false := by simpa [hf] using h.faultFaulted
  have hbusy : ¬(s.phase = .wait ∨ s.phase = .drawData ∨ s.phase = .drawEnd) :=
    fun q => by simpa [ho] using h.openBusy q
  exact
    { romWf := h.romWf, rstWf := h.rstWf, pixWf := h.pixWf, noFault := hfault
      noCause := by simpa [hfault] using h.causeFault
      noDelay := by
        by_contra hd
        exact hbusy (.inl (h.delayWait.mp hd))
      closed := ho, queueShort := h.queueShort, ptrWidth := h.ptrWidth
      noBurst := by
        by_contra hb
        simpa [ho] using (h.burstWin.mp hb).2
      noArgsDue := h.cmdSent_eq_false_of_closed ho
      noDataDue := h.blockDue_eq_false fun hp => hbusy (.inr (.inl hp)) }

/-- The EndTransfer of DrawTile leaves the block quiet. -/
theorem Inv.quiet_closeXfer {s : State} (h : Inv s) (hp : s.phase = .drawEnd) : Quiet s.closeXfer := by
  obtain ⟨-, -, hfault, hcause⟩ := h.of_busy (by simp [hp]) (by simp [hp])
  exact
    { romWf := h.romWf, rstWf := h.rstWf, pixWf := h.pixWf, noFault := hfault, noCause := hcause
      noDelay := by simpa [hp] using h.delayWait
      closed := rfl, queueShort := h.queueShort, ptrWidth := h.ptrWidth
      noBurst := by simpa [hp] using h.burstWin
      noArgsDue := by simpa [hp] using h.argsDue
      noDataDue := h.blockDue_eq_false (by simp [hp]) }

/-- A quiet block in IDLE, in SEQ or in DRAW_WIN meets the invariant where READY, DONE and the continuation registers suit
the phase. -/
theorem Quiet.inv {s : State} (h : Quiet s) (hp : s.phase = .idle ∨ s.phase = .seq ∨ s.phase = .drawWin)
    (hr : s.ready = true ↔ s.phase = .idle) (hd : s.done = true → s.phase = .idle)
    (hq : s.phase = .idle → s.seqQ = [] ∧ s.pendPs = none)
    (ha : s.phase.drawing = true → s.pstate ≠ .uninit ∧ s.pstate ≠ .deepSleep) : Inv s := by
  obtain ⟨hrom, hrst, hpix, hfault, hcause, hdelay, hclosed, hqueue, hptr, hburst, hargs, hdata⟩ := h
  have hbusy : s.phase ≠ .faulted ∧ s.phase ≠ .wait ∧ s.phase ≠ .drawData ∧ s.phase ≠ .drawEnd := by
    rcases hp with hp | hp | hp <;> simp [hp]
  exact
    { romWf := hrom, rstWf := hrst, pixWf := hpix, readyIdle := hr, doneIdle := hd
      faultFaulted := by simp [hfault, hbusy]
      causeFault := by simp [hfault, hcause]
      delayWait := by simp [hdelay, hbusy]
      openBusy := by simp [hbusy]
      closedIdle := fun _ => hclosed
      openNotSeen := by simp [hclosed]
      queueShort := hqueue, idleQueue := hq, ptrWidth := hptr
      blkBound := by simp [hbusy]
      burstWin := by simp [hburst, hclosed]
      argsDue := by simp [hargs]
      dataDue := by simp [hdata]
      drawAdmitted := ha }

/-! ### Beginning and ending a message -/

theorem Quiet.latched {s : State} (h : Quiet s) (tag arg : Byte) (tile : Tile) : Quiet (latched tag arg tile s) :=
  { h with
    queueShort := by simp
    ptrWidth := Nat.mod_lt _ (by positivity) }

theorem Quiet.finish {s : State} (h : Quiet s) (r : Bool) : Inv (s.finish r) := by
  have hq : Quiet (s.finish r) := { h with queueShort := by simp }
  exact hq.inv (by simp) (by simp) (by simp) (by simp) (by simp [Phase.drawing])

theorem Quiet.sequenceStarted {s : State} (h : Quiet s) (hr : s.ready = false) (hd : s.done = false) (b : Half)
    {q : List Half} (hq : q.length ≤ 2) (p : Option PState) :
    Inv (sequenceStarted b { s with seqQ := q, pendPs := p }) := by
  have hs : Quiet (Machine.sequenceStarted b { s with seqQ := q, pendPs := p }) := { h with queueShort := hq }
  exact hs.inv (by simp) (by simp [hr]) (by simp [hd]) (by simp) (by simp [Phase.drawing])

theorem Quiet.beginDraw {s : State} (h : Quiet s) (hr : s.ready = false) (hd : s.done = false)
    (hu : s.pstate ≠ .uninit) (hs : s.pstate ≠ .deepSleep) : Inv s.beginDraw := by
  have hq : Quiet s.beginDraw := { h with }
  exact hq.inv (by simp) (by simp [hr]) (by simp [hd]) (by simp) (fun _ => ⟨hu, hs⟩)

/-- Every handler leads from an accepted message to a state that meets the invariant. -/
theorem Quiet.handlerOf {s : State} (h : Quiet s) (hr : s.ready = false) (hd : s.done = false) (tag : Byte) :
    Inv (handlerOf tag s) := by
  rcases handlerOf_cases tag s with ⟨he, -⟩ | ⟨he, -⟩ | ⟨b, q, p, he, hq, -⟩ | ⟨he, -, hs, hu⟩ <;> rw [he]
  · exact h.finish true
  · exact h.finish false
  · refine h.sequenceStarted hr hd b ?_ p
    rcases hq with rfl | rfl
    · exact h.queueShort
    · simp
  · exact h.beginDraw hr hd hu hs

/-- Reset leads to a state that meets the invariant, where the configuration it applies has a canonical ROM image. -/
theorem inv_applyRst {s : State} {c : Config} (hc : memWf c.seqMem = true) (hpix : memWf s.pix = true) :
    Inv (s.applyRst c) := by
  have hq : Quiet (s.applyRst c) :=
    { romWf := hc, rstWf := by simp [State.applyRst, State.reset], pixWf := hpix, noFault := rfl, noCause := rfl
      noDelay := rfl, closed := rfl, queueShort := by simp [State.applyRst, State.reset]
      ptrWidth := Nat.two_pow_pos _, noBurst := rfl, noArgsDue := rfl, noDataDue := rfl }
  exact hq.inv (.inl rfl) (by simp [State.applyRst, State.reset]) (fun _ => rfl) (fun _ => ⟨rfl, rfl⟩)
    (by simp [State.applyRst, State.reset, Phase.drawing])

/-! ### The operations of a running message -/

/-- The bus and the trace are no part of the invariant. -/
theorem Inv.bus {s : State} (h : Inv s) (bus : List BusReply) : Inv { s with bus := bus } := { h with }

theorem Inv.eventTaken {s : State} (h : Inv s) (e : BusEvent) : Inv (eventTaken e s) := { h with }

theorem Inv.configFaulted {s : State} (h : Inv s) (hp : s.phase = .seq) (hc : s.cmdSent = false) {c : FaultCause}
    (hne : c ≠ .none) : Inv (configFaulted c s) := by
  obtain ⟨hready, hdone, -, -⟩ := h.of_busy (by simp [hp]) (by simp [hp])
  exact
    { h with
      readyIdle := by simp [hready]
      doneIdle := by simp [hdone]
      faultFaulted := by simp
      causeFault := by simp [hne]
      delayWait := by simpa [hp] using h.delayWait
      openBusy := by simp
      closedIdle := by simp
      openNotSeen := by simp [Phase.sequencing]
      idleQueue := by simp
      blkBound := by simp
      burstWin := by simpa [hp] using h.burstWin
      argsDue := by simp [hc]
      dataDue := by simpa [hp] using h.dataDue
      drawAdmitted := by simp [Phase.drawing] }

/-- SEQ_PC may move where no SendArgs is due. -/
theorem Inv.advance {s : State} (h : Inv s) (hc : s.cmdSent = false) (n : Nat) : Inv (s.advance n) := by
  rcases advance_moved n s with ⟨-, -, he⟩ | ⟨-, v, he⟩ <;> rw [he] <;>
    exact { h with argsDue := by simp [hc] }

theorem Inv.openXfer {s : State} (h : Inv s) (hp : s.phase = .seq) (hs : s.xferSeen = false) (ho : s.xferOpen = false) :
    Inv s.openXfer :=
  { h with
    openBusy := by simp
    closedIdle := by simp [hp]
    openNotSeen := by simp [hs]
    burstWin := by simpa [hp] using h.burstWin
    argsDue := by simp [h.cmdSent_eq_false_of_closed ho] }

theorem Inv.closeXfer_markSeen {s : State} (h : Inv s) (hp : s.phase = .seq) (hc : s.cmdSent = false) :
    Inv s.closeXfer.markSeen :=
  { h with
    openBusy := by simp [hp]
    closedIdle := by simp
    openNotSeen := by simp
    burstWin := by simpa [hp] using h.burstWin
    argsDue := by simp [hc] }

theorem Inv.argsSent {s : State} (h : Inv s) : Inv s.argsSent := { h with argsDue := by simp }

/-- The phase changes inside an open bracket, to another phase of the message than DRAW_WIN. -/
theorem Inv.changePhase {s : State} (h : Inv s) (hi : s.phase ≠ .idle) (hf : s.phase ≠ .faulted)
    (ho : s.xferOpen = true) (hc : s.cmdSent = false) (hd : s.blockDue = false) {p : Phase}
    (hp : p ≠ .idle ∧ p ≠ .faulted ∧ p ≠ .drawWin) (hseq : p.sequencing = true → s.phase.sequencing = true)
    (hdraw : p.drawing = true → s.phase.drawing = true) {dly blk : Byte} (hdly : dly ≠ 0 ↔ p = .wait)
    (hblk : p = .drawData → blk.toNat ≤ s.tCnt.toNat) {ws : List WindowCommand} (hws : ws = []) (ms : Nat) :
    Inv { s with phase := p, dlyCnt := dly, blkIdx := blk, burst := ws, waitedMs := ms } := by
  obtain ⟨hready, hdone, hfault, -⟩ := h.of_busy hi hf
  exact
    { h with
      readyIdle := by simp [hready, hp]
      doneIdle := by simp [hdone]
      faultFaulted := by simp [hfault, hp]
      delayWait := hdly
      openBusy := fun _ => ho
      closedIdle := by simp [hp]
      openNotSeen := fun q => h.openNotSeen (hseq q)
      idleQueue := by simp [hp]
      blkBound := hblk
      burstWin := by simp [hws, hp]
      argsDue := by simp [hc]
      dataDue := by simp [hd]
      drawAdmitted := fun q => h.drawAdmitted (hdraw q) }

theorem Inv.loadDelay {s : State} (h : Inv s) (hp : s.phase = .seq) (ho : s.xferOpen = true) (hc : s.cmdSent = false)
    (d : Byte) : Inv (s.loadDelay d) := by
  by_cases hd : d = 0
  · have hz : s.dlyCnt = 0 := by simpa [hp] using h.delayWait
    have he : s.loadDelay d = s := by rw [State.loadDelay, hd, if_pos rfl, ← hz]
    rwa [he]
  · have he : s.loadDelay d = { s with dlyCnt := d, phase := .wait } := by rw [State.loadDelay, if_neg hd]
    rw [he]
    exact h.changePhase (by simp [hp]) (by simp [hp]) ho hc (h.blockDue_eq_false (by simp [hp])) (by simp)
      (by simp [hp, Phase.sequencing]) (by simp [Phase.drawing]) (iff_of_true hd rfl) (by simp)
      (by simpa [hp] using h.burstWin) s.waitedMs

theorem Inv.wakes {s : State} (h : Inv s) (hp : s.phase = .wait) (ms : Nat) :
    Inv { s with dlyCnt := 0, phase := .seq, waitedMs := ms } :=
  h.changePhase (by simp [hp]) (by simp [hp]) (h.openBusy (.inl hp)) (by simpa [hp] using h.argsDue)
    (h.blockDue_eq_false (by simp [hp])) (by simp) (by simp [hp, Phase.sequencing]) (by simp [Phase.drawing]) (by simp)
    (by simp) (by simpa [hp] using h.burstWin) ms

theorem Inv.ticks {s : State} (h : Inv s) (hd : 1 < s.dlyCnt.toNat) (ms : Nat) :
    Inv { s with dlyCnt := s.dlyCnt - 1, waitedMs := ms } := by
  have hleft : s.dlyCnt - 1 ≠ 0 := by bv_omega
  have hleft' : s.dlyCnt ≠ 0 := by bv_omega
  exact { h with delayWait := ⟨fun _ => h.delayWait.mp hleft', fun _ => hleft⟩ }

theorem Inv.openWindow {s : State} (h : Inv s) (hp : s.phase = .drawWin) (ho : s.xferOpen = false) : Inv s.openWindow :=
  { h with
    openBusy := by simp
    closedIdle := by simp [hp]
    openNotSeen := by simp [hp, Phase.sequencing]
    burstWin := by simp [State.openWindow, windowBurst, hp]
    argsDue := by simp [h.cmdSent_eq_false_of_closed ho] }

/-- The SendCommand is taken of the CMDA at SEQ_PC. -/
theorem Inv.commandSent_seq {s : State} (h : Inv s) (hp : s.phase = .seq) (ho : s.xferOpen = true) {op : Byte}
    {args : List Byte} (ha : args ≠ []) (hf : fetchInstr s.cfg s.fetchAddr = some (.cmda op args)) : Inv s.commandSent :=
  { h with argsDue := fun _ => .inl ⟨hp, ho, op, args, ha, hf⟩ }

/-- The SendCommand is taken of the window command under way. -/
theorem Inv.commandSent_window {s : State} (h : Inv s) (hp : s.phase = .drawWin) {w : WindowCommand}
    {ws : List WindowCommand} (hw : s.burst = w :: ws) (ha : w.args ≠ []) : Inv s.commandSent :=
  { h with argsDue := fun _ => .inr ⟨hp, w, ws, hw, ha⟩ }

/-- A window command is done: the burst goes on, or the data phase begins with its bracket open. -/
theorem Inv.burstGoesOn {s : State} (h : Inv s) (hp : s.phase = .drawWin) (ho : s.xferOpen = true)
    (hc : s.cmdSent = false) (ws : List WindowCommand) : Inv (s.burstGoesOn ws) := by
  rcases burstGoesOn_cases ws s with ⟨-, he⟩ | ⟨hne, he⟩ <;> rw [he]
  · exact h.changePhase (by simp [hp]) (by simp [hp]) ho hc (h.blockDue_eq_false (by simp [hp])) (by simp)
      (by simp [Phase.sequencing]) (by simp [hp, Phase.drawing]) (by simpa [hp] using h.delayWait) (by simp) rfl s.waitedMs
  · exact
      { h with
        burstWin := by simp [hne, hp, ho]
        argsDue := by simp [hc] }

theorem Inv.convertBlock {s : State} (h : Inv s) (hp : s.phase = .drawData) (hk : s.blkIdx.toNat < s.tCnt.toNat)
    {input : Block} (hm : memReadPix s (s.tPtr + 8 * s.blkIdx.toNat) = some input) : Inv (s.convertBlock input) :=
  { h with dataDue := fun _ => ⟨hp, hk, input, hm, rfl⟩ }

theorem Inv.blockSent {s : State} (h : Inv s) (hd : s.blockDue = true) : Inv s.blockSent := by
  have hk : (s.blkIdx + 1).toNat ≤ s.tCnt.toNat := by
    have := (h.dataDue hd).2.1
    bv_omega
  exact
    { h with
      blkBound := fun _ => hk
      dataDue := by simp }

theorem Inv.dataEnds {s : State} (h : Inv s) (hp : s.phase = .drawData) (hd : s.blockDue = false) :
    Inv { s with phase := .drawEnd } :=
  h.changePhase (by simp [hp]) (by simp [hp]) (h.openBusy (.inr (.inl hp))) (by simpa [hp] using h.argsDue) hd (by simp)
    (by simp [Phase.sequencing]) (by simp [hp, Phase.drawing]) (by simpa [hp] using h.delayWait) (by simp)
    (by simpa [hp] using h.burstWin) s.waitedMs

/-! ### The step -/

/-- Where SEQ presents no event, as where its instruction faults, no SendArgs is due. -/
theorem Inv.cmdSent_eq_false_of_presented {s : State} (h : Inv s) (hp : s.phase = .seq) (he : s.presented = none) :
    s.cmdSent = false := by
  by_contra hc
  rcases h.argsDue (by simpa using hc) with ⟨-, ho, op, args, ha, hf⟩ | ⟨hw, -⟩
  · simp [State.presented, hp, hf, instrEvent, cmdaCheck_eq_none.mpr ⟨ha, ho⟩] at he
  · simp [hp] at hw

theorem StepShape.inv {s t : State} (hs : StepShape s t) (h : Inv s) : Inv t := by
  cases hs with
  | rests => exact h
  | accepts hp hr m rest hm =>
    have hq : Quiet { s with msgs := rest } := { h.quiet (by simp [hp]) (h.closedIdle hp) with }
    exact (hq.latched m.tag m.arg m.tile).handlerOf rfl rfl m.tag
  | holds e k ws he hb => exact h.bus _
  | faults hp c hc he => exact h.configFaulted hp (h.cmdSent_eq_false_of_presented hp he) hc
  | start hp hf ho hs hb =>
    exact ((h.eventTaken _).openXfer hp hs ho).advance (h.cmdSent_eq_false_of_closed ho) 1
  | endx hp hf ho hb =>
    have hc : s.cmdSent = false := h.cmdSent_eq_false_of_fetch hp (by simp [hf])
    exact ((h.eventTaken _).closeXfer_markSeen hp hc).advance hc 1
  | cmd hp o hf ho hb =>
    exact (h.eventTaken _).advance (h.cmdSent_eq_false_of_fetch hp (by simp [hf])) 2
  | cmdaCommand hp o args hf ha ho hb hc => exact (h.eventTaken _).commandSent_seq hp ho ha hf
  | cmdaArgs hp o args hf ha ho hb hc => exact (h.eventTaken _).argsSent.advance rfl _
  | dly hp d hf ho hb =>
    have hc : s.cmdSent = false := h.cmdSent_eq_false_of_fetch hp (by simp [hf])
    exact ((h.eventTaken _).advance hc 2).loadDelay (by simp [hp]) (by simp [ho]) (by simp [hc]) d
  | endHandsOver hp hf ho hs b q hq =>
    obtain ⟨hready, hdone, -, -⟩ := h.of_busy (by simp [hp]) (by simp [hp])
    have hlen : q.length ≤ 2 := by
      have := h.queueShort
      simp only [hq, List.length_cons] at this
      omega
    exact (h.quiet (by simp [hp]) ho).sequenceStarted hready hdone b hlen s.pendPs
  | endFinishes hp hf ho hs hq => exact (h.quiet (by simp [hp]) ho).finish true
  | wakes hp hd => exact h.wakes hp _
  | ticks hp hd => exact h.ticks hd _
  | opensWindow hp ho hb => exact (h.eventTaken _).openWindow hp ho
  | burstEmpty hp ho hw => exact absurd hw (h.burstWin.mpr ⟨hp, ho⟩)
  | windowCmd hp ho w ws hw ha hb =>
    have hc : s.cmdSent = false := by
      by_contra hc
      simpa [hp, hw, ha] using h.argsDue (by simpa using hc)
    exact (h.eventTaken _).burstGoesOn hp ho hc ws
  | windowCommand hp ho w ws hw ha hb hc => exact (h.eventTaken _).commandSent_window hp hw ha
  | windowArgs hp ho w ws hw ha hb hc => exact (h.eventTaken _).argsSent.burstGoesOn hp ho rfl ws
  | converts hp hd hk input hm => exact h.convertBlock hp hk hm
  | block hp hd hb => exact (h.eventTaken _).blockSent hd
  | dataEnds hp hd hk => exact h.dataEnds hp hd
  | drawEnds hp hb => exact ((h.eventTaken _).quiet_closeXfer hp).finish true

/-- Settles O37: a step under RST leads to a reset state, and each shape of the other steps keeps the invariant. -/
theorem everyStepKeepsTheInvariant : Obligations.EveryStepKeepsTheInvariant := by
  intro s t h hstep
  cases hr : s.rst with
  | none => exact (step_shape hr hstep).inv h
  | some c =>
    rw [step_rst hr] at hstep
    cases hstep
    exact inv_applyRst (h.rstWf c hr) h.pixWf

/-- Settles O36: the reset state is quiet and in IDLE. -/
theorem resetStateMeetsTheInvariant : Obligations.ResetStateMeetsTheInvariant := by
  have hq : Quiet State.reset := by constructor <;> simp [State.reset, Config.atReset, memWf, memWfFrom]
  exact hq.inv (.inl rfl) (by simp [State.reset]) (by simp [State.reset]) (fun _ => ⟨rfl, rfl⟩)
    (by simp [State.reset, Phase.drawing])

end Sys2Proof.Machine
end

section
/-!
PROOF. What a step does to the fault registers, to PSTATE with PEND_PS, and to RAM_VALID (10_state.md R26, R27, R36).
-/
namespace Sys2Proof.Machine

/-! ### What the window burst leaves unchanged -/

@[simp] theorem burstGoesOn_fault (ws : List WindowCommand) (s : State) : (s.burstGoesOn ws).fault = s.fault := by
  cases ws <;> rfl
@[simp] theorem burstGoesOn_pstate (ws : List WindowCommand) (s : State) : (s.burstGoesOn ws).pstate = s.pstate := by
  cases ws <;> rfl
@[simp] theorem burstGoesOn_pendPs (ws : List WindowCommand) (s : State) : (s.burstGoesOn ws).pendPs = s.pendPs := by
  cases ws <;> rfl
@[simp] theorem burstGoesOn_ramValid (ws : List WindowCommand) (s : State) :
    (s.burstGoesOn ws).ramValid = s.ramValid := by
  cases ws <;> rfl

/-! ### The fault registers -/

/-- A step without reset keeps FAULT, or raises the ConfigFault of a step in SEQ (R251). -/
theorem StepShape.fault_cases {s t : State} (hs : StepShape s t) :
    t.fault = s.fault ∨ (s.phase = .seq ∧ ∃ cause, cause ≠ .none ∧ t = configFaulted cause s) := by
  cases hs with
  | faults hp c hc => exact .inr ⟨hp, c, hc, rfl⟩
  | accepts hp hr m rest hm =>
    left
    rcases handlerOf_cases m.tag (latched m.tag m.arg m.tile { s with msgs := rest }) with
      ⟨he, -⟩ | ⟨he, -⟩ | ⟨b, q, p, he, -⟩ | ⟨he, -⟩ <;> rw [he] <;> rfl
  | _ => left; simp

/-- Settles O44: FAULT is kept, or the step is the ConfigFault of the instruction at SEQ_PC. -/
theorem faultIsStickyAndPrecise : Obligations.FaultIsStickyAndPrecise := by
  intro s t hr hstep
  rcases (step_shape hr hstep).fault_cases with he | ⟨hp, cause, hc, he⟩
  · exact ⟨fun hf => he.trans hf, fun hf ht => by simp [he, hf] at ht⟩
  · exact ⟨fun _ => by simp [he], fun _ _ => ⟨hp, cause, hc, he⟩⟩

/-- Settles O27: the fetch address past 0xFFFF lies outside every ROM of at most 65536 bytes. -/
theorem seqPcNeverWraps : Obligations.SeqPcNeverWraps := by
  intro s hr hp hpast hsize
  have hread : memReadSeq s.cfg 65536 1 = none := memReadSeq_eq_none.mpr (by omega)
  have hfetch : fetchInstr s.cfg s.fetchAddr = none := by
    simp [State.fetchAddr, hpast, fetchInstr, fetchBytes, hread]
  simp only [step, hr, hp, stepSeq, hfetch]
  rfl

/-! ### PSTATE, PEND_PS and RAM_VALID -/

/-- PSTATE and RAM_VALID are as before, and PEND_PS too, or it is one of the values that a message begins with (R212 to
R215, R230). -/
def PowerKept (s t : State) : Prop :=
  t.pstate = s.pstate ∧ t.ramValid = s.ramValid ∧
    (t.pendPs = s.pendPs ∨ t.pendPs = none ∨ t.pendPs = some .active ∨ t.pendPs = some .deepSleep)

/-- A step without reset keeps PSTATE and RAM_VALID, or it ends the message from a state that has them as before (R203). -/
theorem StepShape.power_cases {s t : State} (hs : StepShape s t) :
    PowerKept s t ∨ ∃ r u, PowerKept s u ∧ t = State.finish r u := by
  cases hs with
  | accepts hp hr m rest hm =>
    have hu : PowerKept s (latched m.tag m.arg m.tile { s with msgs := rest }) := by simp [PowerKept]
    rcases handlerOf_cases m.tag (latched m.tag m.arg m.tile { s with msgs := rest }) with
      ⟨he, -⟩ | ⟨he, -⟩ | ⟨b, q, p, he, -, hpend⟩ | ⟨he, -⟩ <;> rw [he]
    · exact .inr ⟨true, _, hu, rfl⟩
    · exact .inr ⟨false, _, hu, rfl⟩
    · exact .inl (by simp [PowerKept, hpend])
    · exact .inl hu
  | endFinishes => exact .inr ⟨true, s, by simp [PowerKept], rfl⟩
  | drawEnds => exact .inr ⟨true, _, by simp [PowerKept], rfl⟩
  | _ => exact .inl (by simp [PowerKept])

/-- The power state that is not PS_LIGHT, now and at the message's end, stays so. -/
theorem PowerKept.ne_psLight {s t : State} (h : PowerKept s t) (hps : s.pstate ≠ .psLight)
    (hpend : s.pendPs ≠ some .psLight) : t.pstate ≠ .psLight ∧ t.pendPs ≠ some .psLight := by
  obtain ⟨hstate, -, hp⟩ := h
  refine ⟨by rwa [hstate], ?_⟩
  rcases hp with hp | hp | hp | hp <;> simp [hp, hpend]

theorem finish_ne_psLight {s : State} (hps : s.pstate ≠ .psLight) (hpend : s.pendPs ≠ some .psLight) (r : Bool) :
    (s.finish r).pstate ≠ .psLight ∧ (s.finish r).pendPs ≠ some .psLight := by
  refine ⟨?_, by simp⟩
  rcases finishPState_cases r s with he | ⟨-, he⟩
  · simpa [he] using hps
  · intro hf
    rw [State.finish_pstate] at hf
    exact hpend (by rw [he, hf])

/-- Settles O43: a message begins with PEND_PS at KEEP, ACTIVE or DEEP_SLEEP, and ends with PSTATE kept or set to it; a
reset sets UNINIT and KEEP. -/
theorem noStepEntersPsLight : Obligations.NoStepEntersPsLight := by
  intro s t hps hpend hstep
  cases hr : s.rst with
  | some c =>
    rw [step_rst hr] at hstep
    cases hstep
    simp [State.applyRst, State.reset]
  | none =>
    rcases (step_shape hr hstep).power_cases with h | ⟨r, u, h, rfl⟩
    · exact h.ne_psLight hps hpend
    · obtain ⟨hups, hupend⟩ := h.ne_psLight hps hpend
      exact finish_ne_psLight hups hupend r

/-- RAM_VALID after `finish`: as before, set by Init's success, or cleared by SetPowerSave's with a nonzero argument
(R36). -/
theorem finishRamValid_cases (r : Bool) (s : State) :
    s.finishRamValid r = s.ramValid ∨ (r = true ∧ s.finishRamValid r = true ∧ s.mTag = 10) ∨
    (r = true ∧ s.finishRamValid r = false ∧ s.mTag = 11 ∧ s.mArg ≠ 0) := by
  unfold State.finishRamValid
  split
  · rename_i h; exact .inr (.inl ⟨h.1, rfl, h.2⟩)
  · split
    · rename_i h; exact .inr (.inr ⟨h.1, rfl, h.2⟩)
    · exact .inl rfl

/-- An END outside the bracket with no sequence queued ends the message with success (R107, R205). -/
theorem step_endSeq_finishes {s : State} (hr : s.rst = none) (hp : s.phase = .seq)
    (hf : fetchInstr s.cfg s.fetchAddr = some .endSeq) (ho : s.xferOpen = false) (hs : s.xferSeen = true)
    (hq : s.seqQ = []) : step s = .next (s.finish true) := by
  have hend : exec .endSeq s = checked (endCheck s) s (.next s.seqDone) := rfl
  simp only [step, hr, hp, stepSeq, hf, hend, endCheck_eq_none.mpr ⟨ho, hs⟩, checked_none, State.seqDone, hq]

/-- Settles O46: RAM_VALID is written by the end of a message alone. -/
theorem ramValidFollowsInitAndDeepSleep : Obligations.RamValidFollowsInitAndDeepSleep := by
  refine ⟨fun s hr hp hf ho hs hq => ?_, fun s t _ hr hstep hne => ?_⟩
  · refine ⟨_, step_endSeq_finishes hr hp hf ho hs hq, rfl, rfl, fun ht => ?_, fun ht ha => ?_⟩
    · simp [State.finishRamValid, ht]
    · exact (if_neg (by simp [ht])).trans (if_pos ⟨rfl, ht, ha⟩)
  · rcases (step_shape hr hstep).power_cases with ⟨-, he, -⟩ | ⟨r, u, ⟨-, hu, -⟩, rfl⟩
    · exact absurd he hne
    · rcases finishRamValid_cases r u with he | ⟨rfl, he, ht⟩ | ⟨rfl, he, ht, ha⟩
      · exact absurd (he.trans hu) hne
      · exact ⟨rfl, rfl, .inl ⟨he, ht⟩⟩
      · exact ⟨rfl, rfl, .inr ⟨he, ht, ha⟩⟩

/-! ### The values of the tables -/

/-- Settles O3, value by value. -/
theorem resetStateHoldsTheSpecsValues : Obligations.ResetStateHoldsTheSpecsValues := by
  unfold Obligations.ResetStateHoldsTheSpecsValues
  decide

/-- Settles O57: each code, then each output of the port. -/
theorem statusOutputsAreEncodedAsTheTablesSay : Obligations.StatusOutputsAreEncodedAsTheTablesSay :=
  ⟨rfl, rfl, rfl, rfl, rfl, rfl, rfl, rfl, rfl, rfl, rfl, rfl, rfl, fun _ => ⟨rfl, rfl, rfl, rfl, rfl, rfl, rfl⟩⟩

end Sys2Proof.Machine
end

section
/-!
PROOF. RAM_VALID is a ghost (10_state.md R36): each operation of the block does the same to two states that differ in it
alone. `IgnoresRamValid` says so of an operation on states, `AgreeButRamValid` of two outcomes.
-/
namespace Sys2Proof.Machine

def State.withRamValid (b : Bool) (s : State) : State := { s with ramValid := b }

/-- Two outcomes are alike: next states that differ in RAM_VALID alone, or the same fault. -/
inductive AgreeButRamValid : Out → Out → Prop where
  | next (t : State) (b : Bool) : AgreeButRamValid (.next t) (.next (t.withRamValid b))
  | fault (r : Fault) : AgreeButRamValid (.fault r) (.fault r)

theorem AgreeButRamValid.of_next {t : State} {o : Out} (h : AgreeButRamValid (.next t) o) :
    ∃ b, o = .next (t.withRamValid b) := by
  cases h with
  | next _ b => exact ⟨b, rfl⟩

theorem AgreeButRamValid.of_fault {r : Fault} {o : Out} (h : AgreeButRamValid (.fault r) o) : o = .fault r := by
  cases h
  rfl

/-- An operation leads from states that differ in RAM_VALID alone to such states. -/
def IgnoresRamValid (f : State → State) : Prop := ∀ s b, ∃ b', f (s.withRamValid b) = (f s).withRamValid b'

theorem IgnoresRamValid.agree {f : State → State} (hf : IgnoresRamValid f) (s : State) (b : Bool) :
    AgreeButRamValid (.next (f s)) (.next (f (s.withRamValid b))) := by
  obtain ⟨b', he⟩ := hf s b
  rw [he]
  exact .next _ b'

theorem IgnoresRamValid.comp {f g : State → State} (hg : IgnoresRamValid g) (hf : IgnoresRamValid f) :
    IgnoresRamValid fun s => g (f s) := by
  intro s b
  obtain ⟨b₁, h₁⟩ := hf s b
  obtain ⟨b₂, h₂⟩ := hg (f s) b₁
  exact ⟨b₂, by simp only [h₁, h₂]⟩

/-- An operation that neither reads nor writes RAM_VALID. -/
theorem ignoresRamValid_of_comm {f : State → State} (h : ∀ s b, f (s.withRamValid b) = (f s).withRamValid b) :
    IgnoresRamValid f :=
  fun s b => ⟨b, h s b⟩

/-- A choice by a condition that RAM_VALID is no part of. -/
theorem IgnoresRamValid.ite {c : State → Prop} [DecidablePred c] {f g : State → State}
    (hc : ∀ s b, c (s.withRamValid b) ↔ c s) (hf : IgnoresRamValid f) (hg : IgnoresRamValid g) :
    IgnoresRamValid fun s => if c s then f s else g s := by
  intro s b
  by_cases h : c s
  · simpa only [if_pos h, if_pos ((hc s b).mpr h)] using hf s b
  · simpa only [if_neg h, if_neg (mt (hc s b).mp h)] using hg s b

/-! ### The operations on states -/

theorem advance_ignoresRamValid (n : Nat) : IgnoresRamValid (State.advance n) :=
  .ite (fun _ _ => .rfl) (ignoresRamValid_of_comm fun _ _ => rfl) (ignoresRamValid_of_comm fun _ _ => rfl)

theorem burstGoesOn_ignoresRamValid (ws : List WindowCommand) : IgnoresRamValid (State.burstGoesOn ws) :=
  ignoresRamValid_of_comm fun _ _ => by cases ws <;> rfl

/-- `finish` alone reads RAM_VALID, and writes it alone from what it read. -/
theorem finish_ignoresRamValid (r : Bool) : IgnoresRamValid (State.finish r) :=
  fun s b => ⟨(s.withRamValid b).finishRamValid r, rfl⟩

theorem seqDone_ignoresRamValid : IgnoresRamValid State.seqDone := by
  intro s b
  cases hq : s.seqQ with
  | nil => simpa [State.seqDone, State.withRamValid, hq] using finish_ignoresRamValid true s b
  | cons base q => exact ⟨b, by simp [State.seqDone, State.withRamValid, hq, State.runSeq]⟩

theorem beginPowersave_ignoresRamValid : IgnoresRamValid State.beginPowersave :=
  .ite (fun _ _ => .rfl) (ignoresRamValid_of_comm fun _ _ => rfl) (ignoresRamValid_of_comm fun _ _ => rfl)

theorem drawTile_ignoresRamValid : IgnoresRamValid State.drawTile :=
  .ite (fun _ _ => .rfl) (finish_ignoresRamValid false) (ignoresRamValid_of_comm fun _ _ => rfl)

/-! ### The handshake, the checks and the acceptance -/

theorem present_agree {e : BusEvent} {go : State → State} (hgo : IgnoresRamValid go) (s : State) (b : Bool) :
    AgreeButRamValid (present e s go) (present e (s.withRamValid b) go) := by
  have htaken := (hgo.comp (ignoresRamValid_of_comm (f := State.emit e) fun _ _ => rfl)).agree s b
  have hbus : (s.withRamValid b).bus = s.bus := rfl
  unfold present
  rw [hbus]
  split
  · exact htaken
  · exact htaken
  · exact .next _ b
  · exact .fault _

theorem presentCommandArgs_agree {op : Byte} {args : List Byte} {go : State → State} (hgo : IgnoresRamValid go)
    (s : State) (b : Bool) :
    AgreeButRamValid (presentCommandArgs op args s go) (presentCommandArgs op args (s.withRamValid b) go) := by
  have hnext : IgnoresRamValid fun t => if s.cmdSent then go t.argsSent else t.commandSent := by
    cases s.cmdSent
    · exact ignoresRamValid_of_comm fun _ _ => rfl
    · exact hgo.comp (ignoresRamValid_of_comm fun _ _ => rfl)
  exact present_agree hnext s b

theorem checked_agree {check : Option FaultCause} {run run' : Out} (h : AgreeButRamValid run run') (s : State)
    (b : Bool) : AgreeButRamValid (checked check s run) (checked check (s.withRamValid b) run') := by
  cases check with
  | none => exact h
  | some c => exact .next _ b

theorem onAccept_agree {tag arg : Byte} {tile : Tile} {handler : State → State} (h : IgnoresRamValid handler) (s : State)
    (b : Bool) : AgreeButRamValid (onAccept tag arg tile handler s) (onAccept tag arg tile handler (s.withRamValid b)) := by
  have haccepted := (h.comp (ignoresRamValid_of_comm (f := State.accept tag arg tile) fun _ _ => rfl)).agree s b
  have hcan : (s.withRamValid b).canAccept = s.canAccept := rfl
  unfold onAccept
  rw [hcan]
  split
  · exact haccepted
  · exact .next _ b

/-! ### The instructions and the step -/

theorem exec_agree (i : Instr) (s : State) (b : Bool) : AgreeButRamValid (exec i s) (exec i (s.withRamValid b)) := by
  cases i with
  | start =>
    exact checked_agree (present_agree ((advance_ignoresRamValid 1).comp (ignoresRamValid_of_comm fun _ _ => rfl)) s b) s b
  | endx =>
    exact checked_agree (present_agree ((advance_ignoresRamValid 1).comp (ignoresRamValid_of_comm fun _ _ => rfl)) s b) s b
  | cmd op => exact checked_agree (present_agree (advance_ignoresRamValid 2) s b) s b
  | cmda op args => exact checked_agree (presentCommandArgs_agree (advance_ignoresRamValid _) s b) s b
  | dly d =>
    have hload : IgnoresRamValid (State.loadDelay d) := ignoresRamValid_of_comm fun _ _ => rfl
    exact checked_agree (present_agree (hload.comp (advance_ignoresRamValid 2)) s b) s b
  | endSeq => exact checked_agree (seqDone_ignoresRamValid.agree s b) s b
  | reserved op => exact .next _ b
  | setup arg tile => exact onAccept_agree (finish_ignoresRamValid true) s b
  | init arg tile => exact onAccept_agree (ignoresRamValid_of_comm fun _ _ => rfl) s b
  | powersave arg tile => exact onAccept_agree beginPowersave_ignoresRamValid s b
  | flip arg tile => exact onAccept_agree (finish_ignoresRamValid true) s b
  | draw arg tile => exact onAccept_agree drawTile_ignoresRamValid s b
  | refresh arg tile => exact onAccept_agree (ignoresRamValid_of_comm fun _ _ => rfl) s b
  | unknownTag tag arg tile => exact onAccept_agree (finish_ignoresRamValid false) s b

theorem stepIdle_agree (s : State) (b : Bool) : AgreeButRamValid (stepIdle s) (stepIdle (s.withRamValid b)) := by
  have hmsgs : (s.withRamValid b).msgs = s.msgs := rfl
  have hcan : (s.withRamValid b).canAccept = s.canAccept := rfl
  unfold stepIdle
  rw [hmsgs, hcan]
  split
  · exact .next _ b
  · rename_i m rest _
    split
    · exact exec_agree (decodeMsg m) { s with msgs := rest } b
    · exact .next _ b

theorem stepSeq_agree (s : State) (b : Bool) : AgreeButRamValid (stepSeq s) (stepSeq (s.withRamValid b)) := by
  have hfetch : fetchInstr (s.withRamValid b).cfg (s.withRamValid b).fetchAddr = fetchInstr s.cfg s.fetchAddr := rfl
  unfold stepSeq
  rw [hfetch]
  split
  · rename_i i _; exact exec_agree i s b
  · exact .next _ b

theorem stepWait_agree (s : State) (b : Bool) : AgreeButRamValid (stepWait s) (stepWait (s.withRamValid b)) := by
  have hdly : (s.withRamValid b).dlyCnt = s.dlyCnt := rfl
  unfold stepWait
  rw [hdly]
  split
  · exact .next _ b
  · exact .next _ b

theorem stepDrawWin_agree (s : State) (b : Bool) : AgreeButRamValid (stepDrawWin s) (stepDrawWin (s.withRamValid b)) := by
  have hopen : (s.withRamValid b).xferOpen = s.xferOpen := rfl
  have hburst : (s.withRamValid b).burst = s.burst := rfl
  unfold stepDrawWin
  rw [hopen, hburst]
  split
  · split
    · exact .next _ b
    · rename_i w ws _
      unfold runWindowCommand
      split
      · exact present_agree (burstGoesOn_ignoresRamValid ws) s b
      · exact presentCommandArgs_agree (burstGoesOn_ignoresRamValid ws) s b
  · exact present_agree (ignoresRamValid_of_comm fun _ _ => rfl) s b

theorem stepDrawData_agree (s : State) (b : Bool) :
    AgreeButRamValid (stepDrawData s) (stepDrawData (s.withRamValid b)) := by
  have hdue : (s.withRamValid b).blockDue = s.blockDue := rfl
  have hidx : (s.withRamValid b).blkIdx = s.blkIdx := rfl
  have hcnt : (s.withRamValid b).tCnt = s.tCnt := rfl
  have hread (a : Nat) : memReadPix (s.withRamValid b) a = memReadPix s a := rfl
  have hptr : (s.withRamValid b).tPtr = s.tPtr := rfl
  unfold stepDrawData
  rw [hdue, hidx, hcnt, hptr, hread]
  split
  · exact present_agree (ignoresRamValid_of_comm fun _ _ => rfl) s b
  · split
    · split
      · exact .next _ b
      · exact .fault _
    · exact .next _ b

theorem stepDrawEnd_agree (s : State) (b : Bool) : AgreeButRamValid (stepDrawEnd s) (stepDrawEnd (s.withRamValid b)) :=
  present_agree ((finish_ignoresRamValid true).comp (ignoresRamValid_of_comm fun _ _ => rfl)) s b

/-- A step is the same from states that differ in RAM_VALID alone; a reset leads to one state from both. -/
theorem step_agree (s : State) (b : Bool) : AgreeButRamValid (step s) (step (s.withRamValid b)) := by
  have hrst : (s.withRamValid b).rst = s.rst := rfl
  have hphase : (s.withRamValid b).phase = s.phase := rfl
  unfold step
  rw [hrst, hphase]
  split
  · exact .next _ false
  · cases s.phase with
    | idle => exact stepIdle_agree s b
    | seq => exact stepSeq_agree s b
    | wait => exact stepWait_agree s b
    | drawWin => exact stepDrawWin_agree s b
    | drawData => exact stepDrawData_agree s b
    | drawEnd => exact stepDrawEnd_agree s b
    | faulted => exact .fault _

/-- Settles O45: the two steps agree, in their next states and in their stops. -/
theorem ramValidNeverChangesBehaviour : Obligations.RamValidNeverChangesBehaviour :=
  fun s b => ⟨fun _ ht => (ht ▸ step_agree s b).of_next, fun _ hr => (hr ▸ step_agree s b).of_fault⟩

end Sys2Proof.Machine
end

section
/-!
PROOF. Memory (20_memory.md R51, R54, R57): what a SEQ read answers, and that no step but a reset writes the configuration
with its sequence ROM, or pixel memory.
-/
namespace Sys2Proof.Machine

/-! ### What a SEQ read answers -/

/-- The bytes of a read come in increasing address order (R54). -/
theorem memBytes_getElem? {m : Mem} {a n k : Nat} (hk : k < n) : (memBytes m a n)[k]? = some (memRead m (a + k)) := by
  induction n generalizing a k with
  | zero => omega
  | succ n ih =>
    cases k with
    | zero => rfl
    | succ k =>
      rw [memBytes, List.getElem?_cons_succ, ih (by omega), show a + 1 + k = a + (k + 1) by omega]

/-- Settles O25: a read that ends inside the ROM answers `memBytes`. -/
theorem seqReadStaysInsideTheRom : Obligations.SeqReadStaysInsideTheRom :=
  fun _ _ _ => ⟨memReadSeq_eq_none.mpr, fun hfits =>
    ⟨_, memReadSeq_eq_some.mpr ⟨hfits, rfl⟩, memBytes_length _ _ _, fun _ hk => memBytes_getElem? hk⟩⟩

/-! ### What no step writes -/

@[simp] theorem burstGoesOn_cfg (ws : List WindowCommand) (s : State) : (s.burstGoesOn ws).cfg = s.cfg := by
  cases ws <;> rfl
@[simp] theorem burstGoesOn_pix (ws : List WindowCommand) (s : State) : (s.burstGoesOn ws).pix = s.pix := by
  cases ws <;> rfl

/-- No handler of a message writes the configuration or pixel memory. -/
theorem handlerOf_keeps_memory (tag : Byte) (s : State) :
    (handlerOf tag s).cfg = s.cfg ∧ (handlerOf tag s).pix = s.pix := by
  rcases handlerOf_cases tag s with ⟨he, -⟩ | ⟨he, -⟩ | ⟨b, q, p, he, -⟩ | ⟨he, -⟩ <;> rw [he] <;> exact ⟨rfl, rfl⟩

/-- A step without reset keeps the configuration and pixel memory: the handler of the message it accepts does, and so does
each operation of a running message. -/
theorem StepShape.keeps_memory {s t : State} (hs : StepShape s t) : t.cfg = s.cfg ∧ t.pix = s.pix := by
  cases hs with
  | accepts hp hr m rest hm => exact handlerOf_keeps_memory m.tag (latched m.tag m.arg m.tile { s with msgs := rest })
  | _ => simp

/-- Settles O41, by the cases of a step. -/
theorem noStepWritesConfigurationOrMemory : Obligations.NoStepWritesConfigurationOrMemory :=
  fun _ _ hr hstep => (step_shape hr hstep).keeps_memory

end Sys2Proof.Machine
end

section
/-!
PROOF. The decoder and the encoder agree, over bytes of the sequence ROM and over messages of the host port
(30_encoding.md R71 to R76, R84).
-/
namespace Sys2Proof

/-! ### The two name spaces -/

/-- The encoding of a ROM instruction is its bytes. -/
theorem encode_of_inRom {i : Instr} (h : i.inRom = true) : encode i = .rom (romBytes i) := by
  unfold romBytes
  unfold Instr.inRom at h
  split at h
  · rename_i bs he; simp only [he]
  · cases h

/-- A well-formed host message decodes from its encoding (R76). -/
theorem decode_encode_of_not_inRom {i : Instr} (hport : i.inRom = false) (hwf : i.wf = true) :
    decode (encode i) = .ok i := by
  cases i with
  | setup _ _ => rfl
  | init _ _ => rfl
  | powersave _ _ => rfl
  | flip _ _ => rfl
  | draw _ _ => rfl
  | refresh _ _ => rfl
  | unknownTag t a tile =>
    simp only [Instr.wf, Bool.not_eq_true'] at hwf
    simp only [encode, decode, decodeMsg_unknown hwf]
  | _ => cases hport

/-- Settles O53: a ROM instruction decodes from its own bytes with none left over, a message from its tag. -/
theorem decodeOfEncodeIsTheInstruction : Obligations.DecodeOfEncodeIsTheInstruction := by
  intro i hwf
  cases hrom : i.inRom with
  | true =>
    have hd : decodeSeq (romBytes i) = .ok (i, []) := by simpa using decodeSeq_romBytes hrom hwf []
    simp only [encode_of_inRom hrom, decode, hd]
  | false => exact decode_encode_of_not_inRom hrom hwf

/-! ### What decodes -/

theorem definedOpcode_iff {b : Byte} :
    definedOpcode b = true ↔ b = 0x01 ∨ b = 0x02 ∨ b = 0x03 ∨ b = 0x04 ∨ b = 0xFE ∨ b = 0xFF := by
  simp only [definedOpcode, Bool.or_eq_true, beq_iff_eq, or_assoc]

theorem recognisedTag_iff {t : Byte} :
    recognisedTag t = true ↔ t = 9 ∨ t = 10 ∨ t = 11 ∨ t = 13 ∨ t = 15 ∨ t = 16 := by
  simp only [recognisedTag, Bool.or_eq_true, beq_iff_eq, or_assoc]

/-- A CMDA term read from its count and its argument bytes: only a count of 0 makes it ill-formed (R75). -/
theorem wf_cmda_of_length {op n : Byte} {args : List Byte} (h : args.length = n.toNat) :
    (Instr.cmda op args).wf = true ∨ ∃ o, Instr.cmda op args = .cmda o [] := by
  cases args with
  | nil => exact .inr ⟨op, rfl⟩
  | cons a as =>
    have hlt := n.isLt
    simp only [List.length_cons] at h
    exact .inl (by simp only [Instr.wf, List.length_cons, decide_eq_true_eq]; omega)

/-- What decodes at the head of a byte list is an instruction whose bytes stand there, well-formed but for the CMDA with
n = 0 (R71, R75). -/
theorem decodeSeq_ok {bs r : List Byte} {i : Instr} (h : decodeSeq bs = .ok (i, r)) :
    bs = romBytes i ++ r ∧ i.inRom = true ∧ (i.wf = true ∨ ∃ o, i = .cmda o []) := by
  cases bs with
  | nil => cases h
  | cons b rest =>
    cases hdef : definedOpcode b with
    | false =>
      rw [decodeSeq_reserved rest hdef] at h
      cases h
      exact ⟨rfl, rfl, .inl (by simp [Instr.wf, hdef])⟩
    | true =>
      rcases definedOpcode_iff.mp hdef with rfl | rfl | rfl | rfl | rfl | rfl
      · cases h; exact ⟨rfl, rfl, .inl rfl⟩
      · cases h; exact ⟨rfl, rfl, .inl rfl⟩
      · cases rest <;> cases h
        exact ⟨rfl, rfl, .inl rfl⟩
      · match rest, h with
        | op :: n :: args, h =>
          by_cases hn : n.toNat ≤ args.length
          · rw [decodeSeq_cmda op n args hn] at h
            cases h
            have hlen : (args.take n.toNat).length = n.toNat := by simpa using hn
            refine ⟨?_, rfl, wf_cmda_of_length hlen⟩
            simp only [romBytes, encode, hlen, List.cons_append, List.take_append_drop, BitVec.ofNat_toNat,
              BitVec.setWidth_eq]
          · simp [decodeSeq, hn] at h
      · cases rest <;> cases h
        exact ⟨rfl, rfl, .inl rfl⟩
      · cases h; exact ⟨rfl, rfl, .inl rfl⟩

/-- The instruction of a message is encoded as that message, and is well-formed (R76). -/
theorem encode_decodeMsg (m : Message) : encode (decodeMsg m) = .port m ∧ (decodeMsg m).wf = true := by
  obtain ⟨tag, arg, tile⟩ := m
  cases hrec : recognisedTag tag with
  | false =>
    rw [decodeMsg_unknown hrec]
    exact ⟨rfl, by simp [Instr.wf, hrec]⟩
  | true => rcases recognisedTag_iff.mp hrec with rfl | rfl | rfl | rfl | rfl | rfl <;> exact ⟨rfl, rfl⟩

/-- Settles O54: the bytes of what decodes stand in the code and no byte is left over; a message is its own encoding. -/
theorem encodeOfDecodeIsTheCode : Obligations.EncodeOfDecodeIsTheCode := by
  intro c i h
  cases c with
  | rom bs =>
    simp only [decode] at h
    split at h
    · rename_i j hd
      cases h
      obtain ⟨hbytes, hrom, hwf⟩ := decodeSeq_ok hd
      exact ⟨by rw [encode_of_inRom hrom, hbytes, List.append_nil], hwf⟩
    · cases h
    · cases h
  | port m =>
    cases h
    exact ⟨(encode_decodeMsg m).1, .inl (encode_decodeMsg m).2⟩

/-! ### Lengths and the opcode map -/

/-- Settles O55: `decodeSeq_romBytes`, and the bytes of each form. -/
theorem instructionLengthComesFromItsOwnBytes : Obligations.InstructionLengthComesFromItsOwnBytes := by
  intro i r hrom hwf _
  refine ⟨decodeSeq_romBytes hrom hwf r, ?_, ?_, ?_, ?_⟩
  · rintro (rfl | rfl | rfl) <;> rfl
  · rintro o rfl; rfl
  · rintro d rfl; rfl
  · rintro o args rfl
    exact ⟨by simp only [romBytes, encode, List.length_cons]; omega, rfl⟩

/-- Settles O11: the decoder's equation for each opcode byte, and the first failing check of the two reserved encodings. -/
theorem opcodeMapAndReservedEncodings : Obligations.OpcodeMapAndReservedEncodings := by
  refine ⟨decodeSeq_start, decodeSeq_endx, decodeSeq_cmd, ?_, decodeSeq_dly, decodeSeq_endSeq, ?_, fun _ _ => rfl,
    fun o r => ⟨decodeSeq_cmda o 0x00 r (Nat.zero_le _), rfl⟩, fun _ _ => rfl, fun _ => ⟨rfl, rfl⟩⟩
  · rintro o n args r h1 h255 rfl
    have hwf : (Instr.cmda o args).wf = true := by simp [Instr.wf, h1, h255]
    exact ⟨decodeSeq_romBytes (i := .cmda o args) rfl hwf r, hwf⟩
  · intro b r hb
    have hdef : ¬definedOpcode b = true := fun hd => hb (by simpa using definedOpcode_iff.mp hd)
    exact decodeSeq_reserved r (by simpa using hdef)

/-- Settles O56, word by word. -/
theorem specWordsDecode : Obligations.SpecWordsDecode :=
  ⟨rfl, rfl, rfl, rfl, rfl, rfl, rfl, rfl, rfl, rfl, rfl, rfl, rfl, rfl, rfl⟩

end Sys2Proof
end

section
/-!
PROOF. The assembler's pseudo-instructions: WAIT (30_encoding.md R79) and SEQUENCE (R80 to R82).
-/
namespace Sys2Proof.Machine

/-! ### WAIT -/

theorem fullDelays_eq_replicate (q : Nat) : fullDelays q = List.replicate q (.dly 255) := by
  induction q with
  | zero => rfl
  | succ q ih => rw [fullDelays, ih, List.replicate_succ]

theorem delaySum_append (l l' : List Instr) : delaySum (l ++ l') = delaySum l + delaySum l' := by
  induction l with
  | nil => simp [delaySum]
  | cons i is ih => simp only [List.cons_append, delaySum, ih, Nat.add_assoc]

theorem delaySum_replicate (q : Nat) (i : Instr) : delaySum (List.replicate q i) = q * delayOf i := by
  induction q with
  | zero => simp [delaySum]
  | succ q ih => rw [List.replicate_succ, delaySum, ih, Nat.succ_mul, Nat.add_comm]

/-- No instruction delays longer than MAX_DELAY_MS (R9, R105). -/
theorem delayOf_le (i : Instr) : delayOf i ≤ 255 := by
  cases i with
  | dly d => exact Nat.le_of_lt_succ d.isLt
  | _ => exact Nat.zero_le _

theorem delaySum_le (l : List Instr) : delaySum l ≤ 255 * l.length := by
  induction l with
  | nil => exact Nat.le_refl 0
  | cons i is ih =>
    have := delayOf_le i
    simp only [delaySum, List.length_cons]
    omega

/-- WAIT as copies of DLY 255 and a DLY of the remainder, if there is one (R79). -/
theorem expandWait_eq (w : Nat) : expandWait w =
    List.replicate (w / 255) (Instr.dly 255) ++ if w % 255 = 0 then [] else [Instr.dly (BitVec.ofNat 8 (w % 255))] := by
  rw [expandWait, fullDelays_eq_replicate]

theorem delayOf_dly_ofNat {r : Nat} (h : r < 256) : delayOf (.dly (BitVec.ofNat 8 r)) = r := by
  rw [delayOf, BitVec.toNat_ofNat]; exact Nat.mod_eq_of_lt h

theorem delaySum_expandWait (w : Nat) : delaySum (expandWait w) = w := by
  have hr := delayOf_dly_ofNat (r := w % 255) (by omega)
  rw [expandWait_eq, delaySum_append, delaySum_replicate, show delayOf (Instr.dly 255) = 255 from rfl]
  split
  · simp only [delaySum]; omega
  · simp only [delaySum, hr]; omega

theorem length_expandWait (w : Nat) : (expandWait w).length = (w + 254) / 255 := by
  rw [expandWait_eq]
  split <;> simp only [List.length_append, List.length_replicate, List.length_nil, List.length_singleton] <;> omega

theorem expandWait_dly {w : Nat} {i : Instr} (h : i ∈ expandWait w) : ∃ d, i = .dly d := by
  rw [expandWait_eq, List.mem_append] at h
  rcases h with h | h
  · exact ⟨255, List.eq_of_mem_replicate h⟩
  · split at h
    · cases h
    · exact ⟨_, List.mem_singleton.mp h⟩

/-- Settles O58: one DLY delays 255 ms at most, so W ms take at least ceil(W/255) of them. -/
theorem waitSplitsIntoTheFewestDelays : Obligations.WaitSplitsIntoTheFewestDelays := by
  refine fun w => ⟨?_, ?_, delaySum_expandWait w, fun i => expandWait_dly, length_expandWait w, fun l _ hsum => ?_⟩
  · rw [expandWait_eq]
    by_cases hr : w % 255 = 0
    · rw [if_pos hr, if_neg (by omega)]
    · rw [if_neg hr, if_pos (by omega)]
  · rintro rfl; rfl
  · have := delaySum_le l
    omega

/-! ### Decoding a list of instructions -/

/-- An instruction that the decoding of a stored sequence passes over: a legal one that is not END (R81). -/
structure Continues (i : Instr) : Prop where
  inRom : i.inRom = true
  wf : i.wf = true
  notEnd : i ≠ .endSeq
  notReserved : ∀ b, i ≠ .reserved b

theorem Continues.of_isBody {i : Instr} (hbody : isBody i = true) (hwf : i.wf = true) : Continues i := by
  cases i with
  | cmd _ => exact ⟨rfl, hwf, nofun, nofun⟩
  | cmda _ _ => exact ⟨rfl, hwf, nofun, nofun⟩
  | dly _ => exact ⟨rfl, hwf, nofun, nofun⟩
  | _ => cases hbody

theorem Instr.len_pos {i : Instr} (h : i.inRom = true) : 0 < i.len := by
  cases i with
  | start | endx | cmd _ | cmda _ _ | dly _ | endSeq | reserved _ => exact Nat.succ_pos _
  | _ => cases h

theorem decodeFrom_endSeq {c : Config} {addr : Nat} (fuel : Nat) (hf : fetchInstr c addr = some .endSeq) :
    decodeFrom c (fuel + 1) addr = some [.endSeq] := by
  rw [decodeFrom, hf]

theorem decodeFrom_continues {c : Config} {addr : Nat} {i : Instr} (fuel : Nat) (hf : fetchInstr c addr = some i)
    (hi : Continues i) : decodeFrom c (fuel + 1) addr = (decodeFrom c fuel (addr + i.len)).map (i :: ·) := by
  obtain ⟨-, hwf, hend, hres⟩ := hi
  rw [decodeFrom, hf]
  cases i with
  | endSeq => exact absurd rfl hend
  | reserved b => exact absurd rfl (hres b)
  | cmda o args =>
    cases args with
    | nil => cases hwf
    | cons a as => rfl
  | _ => rfl

/-- Instructions that stand one after the other in the ROM, up to an END, decode as they stand. Each takes a byte, so the
number of bytes is fuel enough. -/
theorem decodeFrom_assemble {c : Config} {is : List Instr} (his : ∀ i ∈ is, Continues i) :
    ∀ {fuel addr : Nat}, (assemble (is ++ [Instr.endSeq])).length ≤ fuel →
      memReadSeq c addr (assemble (is ++ [Instr.endSeq])).length = some (assemble (is ++ [Instr.endSeq])) →
      decodeFrom c fuel addr = some (is ++ [Instr.endSeq]) := by
  induction is with
  | nil =>
    intro fuel addr hfuel hmem
    obtain ⟨fuel, rfl⟩ := Nat.exists_eq_add_of_lt hfuel
    exact decodeFrom_endSeq _ (fetchInstr_romBytes rfl rfl hmem)
  | cons i is ih =>
    intro fuel addr hfuel hmem
    obtain ⟨hi, his⟩ := List.forall_mem_cons.mp his
    rw [List.cons_append, assemble, List.length_append] at hfuel
    have hlen : 0 < (romBytes i).length := Instr.len_pos hi.inRom
    obtain ⟨fuel, rfl⟩ : ∃ k, fuel = k + 1 := ⟨fuel - 1, by omega⟩
    have hrest : decodeFrom c fuel (addr + i.len) = some (is ++ [Instr.endSeq]) := ih his (by omega) (memReadSeq_drop hmem)
    rw [decodeFrom_continues fuel (fetchInstr_romBytes hi.inRom hi.wf (memReadSeq_append hmem)) hi, hrest]
    rfl

/-! ### SEQUENCE -/

theorem bodyShape_cons {i : Instr} (is : List Instr) (h : isBody i = true) : bodyShape (i :: is) = bodyShape is := by
  cases i with
  | cmd _ => rfl
  | cmda _ _ => rfl
  | dly _ => rfl
  | _ => cases h

theorem bodyShape_append {body : List Instr} (h : ∀ i ∈ body, isBody i = true) :
    bodyShape (body ++ [.endx, .endSeq]) = true := by
  induction body with
  | nil => rfl
  | cons i is ih =>
    obtain ⟨hi, his⟩ := List.forall_mem_cons.mp h
    rw [List.cons_append, bodyShape_cons _ hi, ih his]

/-- Settles O59: the list decodes as it stands, and its shape is that of R82. -/
theorem sequenceFormIsWellFormed : Obligations.SequenceFormIsWellFormed := by
  intro c base body hbody hmem
  have hsplit : expandSequence body = (Instr.start :: (body ++ [Instr.endx])) ++ [Instr.endSeq] := by simp [expandSequence]
  have hcont : ∀ i ∈ Instr.start :: (body ++ [Instr.endx]), Continues i := by
    rw [List.forall_mem_cons, List.forall_mem_append, List.forall_mem_singleton]
    exact ⟨⟨rfl, rfl, nofun, nofun⟩, fun i hi => .of_isBody (hbody i hi).1 (hbody i hi).2, ⟨rfl, rfl, nofun, nofun⟩⟩
  have hdec : decodeSequence c base = some (expandSequence body) := by
    rw [hsplit] at hmem ⊢
    exact decodeFrom_assemble hcont (Nat.le_trans (Nat.le_add_left _ _) (memReadSeq_eq_some.mp hmem).1) hmem
  refine ⟨hdec, ?_⟩
  rw [wfSequence, hdec]
  exact bodyShape_append fun i hi => (hbody i hi).1

end Sys2Proof.Machine
end

section
/-!
PROOF. The operands that a message ignores (30_encoding.md R77, 44_operations.md R210 to R240): they stand in the latch
registers, and no handler reads them.
-/
namespace Sys2Proof.Machine

/-- `s` with another argument, and another tile with its pointer as the port carries it, in the latch registers (R32). -/
def relatched (arg : Byte) (tile : Tile) (s : State) : State :=
  { s with
    mArg := arg
    tX := tile.x
    tY := tile.y
    tCnt := tile.cnt
    tPtr := tile.ptr }

theorem relatched_latched (tag arg arg' : Byte) (tile tile' : Tile) (s : State) :
    latched tag arg' tile' s =
      relatched arg' { tile' with ptr := s.cfg.portPtr tile'.ptr } (latched tag arg tile s) := rfl

/-- The end of a message reads M_ARG only to decide RAM_VALID, after a successful SetPowerSave (R203, R36). -/
theorem finish_relatched {arg : Byte} {tile : Tile} {s : State} {r : Bool} (h : r = false ∨ s.mTag ≠ 11) :
    (relatched arg tile s).finish r = relatched arg tile (s.finish r) := by
  have hram : (relatched arg tile s).finishRamValid r = s.finishRamValid r := by
    rcases h with rfl | htag
    · simp only [finishRamValid_false]; rfl
    · have htag' : (relatched arg tile s).mTag ≠ 11 := htag
      simp only [State.finishRamValid, htag, htag', false_and, and_false, if_false]
      rfl
  simp only [State.finish, hram]
  rfl

theorem beginPowersave_relatched (tile : Tile) (s : State) :
    (relatched s.mArg tile s).beginPowersave = relatched s.mArg tile s.beginPowersave :=
  (apply_ite (relatched s.mArg tile) (s.mArg = 0) (State.runSeq s.cfg.baseActive { s with pendPs := some .active })
    (State.runSeq s.cfg.baseSleep { s with pendPs := some .deepSleep })).symm

theorem drawTile_relatched (arg : Byte) (tile : Tile) (s : State) :
    (relatched arg tile s).drawTile = relatched arg tile s.drawTile :=
  (apply_ite (relatched arg tile) (s.pstate = .deepSleep ∨ s.pstate = .uninit) (s.finish false) s.beginDraw).symm

theorem handlerOf_unknown {tag : Byte} (h : recognisedTag tag = false) : handlerOf tag = State.finish false := by
  simp only [recognisedTag, Bool.or_eq_false_iff, beq_eq_false_iff_ne] at h
  obtain ⟨⟨⟨⟨⟨h9, h10⟩, h11⟩, h13⟩, h15⟩, h16⟩ := h
  simp only [handlerOf, if_neg h9, if_neg h10, if_neg h11, if_neg h13, if_neg h15, if_neg h16]

/-- The handler of a message does not read its tile, and reads its argument only for POWERSAVE (R77). -/
theorem handlerOf_relatched {tag arg : Byte} {tile : Tile} {s : State} (htag : s.mTag = tag)
    (harg : tag = 11 → arg = s.mArg) :
    handlerOf tag (relatched arg tile s) = relatched arg tile (handlerOf tag s) := by
  cases hrec : recognisedTag tag with
  | false => rw [handlerOf_unknown hrec]; exact finish_relatched (.inl rfl)
  | true =>
    rcases recognisedTag_iff.mp hrec with rfl | rfl | rfl | rfl | rfl | rfl
    · exact finish_relatched (.inr (by simp [htag]))
    · rfl
    · obtain rfl := harg rfl; exact beginPowersave_relatched tile s
    · exact finish_relatched (.inr (by simp [htag]))
    · exact drawTile_relatched arg tile s
    · rfl

/-- Settles O22: the other operands stand in the latch registers, and stay there alone through the handler. -/
theorem ignoredOperandsReachOnlyTheLatch : Obligations.IgnoredOperandsReachOnlyTheLatch := by
  intro s t tag arg arg' tile tile' hidle hready harg _ hexec
  have haccept := canAccept_iff.mpr ⟨hidle, hready⟩
  rw [exec_decodeMsg haccept] at hexec ⊢
  cases hexec
  dsimp only
  rw [relatched_latched tag arg arg' tile tile' s, handlerOf_relatched (latched_mTag tag arg tile s) harg]
  rfl

end Sys2Proof.Machine
end

section
/-!
PROOF. A stored sequence runs to its END without a ConfigFault exactly if it is well-formed (30_encoding.md R83).

The interpreter and the decoding of R81 read the same instructions, and the checks of R101 to R107 follow the shape of R82
instruction by instruction: `restWf` says of a block at an instruction of a stored sequence whether what is left to run is
the rest of a well-formed one. An instruction whose checks pass keeps it (`restWf_of_done`); one that raises a ConfigFault
stands where it is false (`restWf_of_check_fails`).
-/
namespace Sys2Proof.Machine

/-! ### Runs -/

theorem Reaches.refl (s : State) : Reaches s s := ⟨0, .refl s⟩

theorem Reaches.one {s t : State} (h : step s = .next t) : Reaches s t := ⟨1, .one h⟩

theorem Reaches.trans {s t u : State} : Reaches s t → Reaches t u → Reaches s u
  | ⟨_, hst⟩, ⟨_, htu⟩ => ⟨_, hst.trans htu⟩

/-- WAIT ends, and the interpreter goes on (R106). -/
theorem wait_elapses (s : State) (hr : s.rst = none) (hp : s.phase = .wait) :
    ∃ ms, Reaches s { s with dlyCnt := 0, phase := .seq, waitedMs := ms } := by
  have hstep : step s = stepWait s := by simp only [step, hr, hp]
  by_cases hlast : s.dlyCnt.toNat ≤ 1
  · exact ⟨_, .one (by rw [hstep, stepWait, if_pos hlast])⟩
  · have htick : step s = .next { s with dlyCnt := s.dlyCnt - 1, waitedMs := s.waitedMs + 1 } := by
      rw [hstep, stepWait, if_neg hlast]
    obtain ⟨ms, hrest⟩ := wait_elapses { s with dlyCnt := s.dlyCnt - 1, waitedMs := s.waitedMs + 1 } hr hp
    exact ⟨ms, (Reaches.one htick).trans hrest⟩
termination_by s.dlyCnt.toNat
decreasing_by bv_omega

/-! ### An instruction of a stored sequence -/

/-- The block is about to fetch an instruction from a ROM of at most 65536 bytes (R9), on a bus that answers. -/
structure AtInstruction (s : State) : Prop where
  notReset : s.rst = none
  inSeq : s.phase = .seq
  noneUnderWay : s.cmdSent = false
  answers : s.busAnswers = true
  romSize : s.cfg.seqMemSize ≤ 65536

/-- What a stored sequence leaves alone until its END or its ConfigFault. -/
structure SequenceKeeps (s t : State) : Prop where
  cfg : t.cfg = s.cfg
  seqQ : t.seqQ = s.seqQ
  pstate : t.pstate = s.pstate
  ramValid : t.ramValid = s.ramValid
  result : t.result = s.result
  done : t.done = s.done
  ready : t.ready = s.ready
  fault : t.fault = s.fault

theorem SequenceKeeps.refl (s : State) : SequenceKeeps s s := ⟨rfl, rfl, rfl, rfl, rfl, rfl, rfl, rfl⟩

theorem SequenceKeeps.trans {s t u : State} (h : SequenceKeeps s t) (h' : SequenceKeeps t u) : SequenceKeeps s u where
  cfg := h'.cfg.trans h.cfg
  seqQ := h'.seqQ.trans h.seqQ
  pstate := h'.pstate.trans h.pstate
  ramValid := h'.ramValid.trans h.ramValid
  result := h'.result.trans h.result
  done := h'.done.trans h.done
  ready := h'.ready.trans h.ready
  fault := h'.fault.trans h.fault

theorem AtInstruction.eventTaken {s : State} (h : AtInstruction s) (e : BusEvent) : AtInstruction (eventTaken e s) :=
  { h with answers := busAnswers_eventTaken h.answers }

theorem SequenceKeeps.eventTaken (e : BusEvent) (s : State) : SequenceKeeps s (eventTaken e s) :=
  { SequenceKeeps.refl s with }

theorem step_of_fetch {s : State} {i : Instr} (hr : s.rst = none) (hp : s.phase = .seq)
    (hf : fetchInstr s.cfg s.fetchAddr = some i) : step s = exec i s := by
  simp only [step, hr, hp, stepSeq, hf]

theorem step_of_fetch_none {s : State} (hr : s.rst = none) (hp : s.phase = .seq)
    (hf : fetchInstr s.cfg s.fetchAddr = none) : step s = .next (configFaulted .fetchRange s) := by
  simp only [step, hr, hp, stepSeq, hf]
  rfl

/-- The event of the instruction at SEQ_PC is accepted in the end (R141). -/
theorem fetched_delivers {s : State} {i : Instr} {e : BusEvent} {go : State → State} (hr : s.rst = none)
    (hp : s.phase = .seq) (ha : s.busAnswers = true) (hf : fetchInstr s.cfg s.fetchAddr = some i)
    (hexec : ∀ b, exec i { s with bus := b } = present e { s with bus := b } go) :
    Reaches s (go (eventTaken e s)) := by
  obtain ⟨n, -, hn⟩ := present_delivers ha fun b => (step_of_fetch (s := { s with bus := b }) hr hp hf).trans (hexec b)
  exact ⟨n, hn⟩

theorem fetchAddr_congr {s t : State} (hpc : t.seqPc = s.seqPc) (hpast : t.pcPastTop = s.pcPastTop) :
    t.fetchAddr = s.fetchAddr := by
  simp only [State.fetchAddr, hpc, hpast]

/-- The fetch address moves on with SEQ_PC, up to the end of the address space (R21). -/
theorem fetchAddr_advance {s : State} {n : Nat} (h : s.fetchAddr + n ≤ 65536) :
    (s.advance n).fetchAddr = s.fetchAddr + n := by
  unfold State.fetchAddr at *
  rcases advance_moved n s with ⟨hpast, hlt, he⟩ | ⟨hpast, v, he⟩ <;> rw [he]
  · simp only [hpast, Bool.false_eq_true, if_false]
    bv_omega
  · cases hp : s.pcPastTop with
    | true => simp only [hp, if_true] at h ⊢; omega
    | false => simp only [hp, Bool.false_eq_true, if_false, if_true, true_and, not_lt] at h hpast ⊢; omega

@[simp] theorem busAnswers_advance (n : Nat) (s : State) : (s.advance n).busAnswers = s.busAnswers := by
  simp only [State.busAnswers, State.advance_bus]

/-- An instruction that is read lies in the ROM (R51). -/
theorem fetchInstr_fits {c : Config} {addr : Nat} {i : Instr} (h : fetchInstr c addr = some i) :
    0 < i.len ∧ addr + i.len ≤ c.seqMemSize := by
  obtain ⟨hrom, -, hmem⟩ := fetchInstr_some h
  exact ⟨Instr.len_pos hrom, (memReadSeq_eq_some.mp hmem).1⟩

/-! ### The checks of an instruction -/

/-- The first failing check of a ROM instruction (R101 to R107, R74). -/
def romCheck (i : Instr) (s : State) : Option FaultCause :=
  match i with
  | .start => startCheck s
  | .endx => endxCheck s
  | .cmd _ => insideCheck s
  | .cmda _ args => cmdaCheck args s
  | .dly _ => insideCheck s
  | .endSeq => endCheck s
  | .reserved _ => some .reservedOpcode
  | .setup _ _ | .init _ _ | .powersave _ _ | .flip _ _ | .draw _ _ | .refresh _ _ | .unknownTag _ _ _ => none

theorem exec_eq_checked {i : Instr} (hrom : i.inRom = true) (s : State) :
    ∃ run, exec i s = checked (romCheck i s) s run := by
  cases i with
  | reserved _ => exact ⟨.next s, rfl⟩
  | start | endx | cmd _ | cmda _ _ | dly _ | endSeq => exact ⟨_, rfl⟩
  | _ => cases hrom

theorem exec_of_check_fails {i : Instr} {s : State} {cause : FaultCause} (hrom : i.inRom = true)
    (hc : romCheck i s = some cause) : exec i s = .next (configFaulted cause s) := by
  obtain ⟨run, he⟩ := exec_eq_checked hrom s
  rw [he, hc, checked_some]

theorem romCheck_ne_none {i : Instr} {s : State} {cause : FaultCause} (hrom : i.inRom = true)
    (hc : romCheck i s = some cause) : cause ≠ .none := by
  cases i with
  | start => exact startCheck_ne_none hc
  | endx => exact endxCheck_ne_none hc
  | cmd _ => exact insideCheck_ne_none hc
  | cmda _ _ => exact cmdaCheck_ne_none hc
  | dly _ => exact insideCheck_ne_none hc
  | endSeq => exact endCheck_ne_none hc
  | reserved _ => cases hc; simp
  | _ => cases hrom

/-- A fetched instruction whose checks pass is one that the decoding of R81 passes over, or END. -/
theorem continues_of_fetch {s : State} {i : Instr} (hf : fetchInstr s.cfg s.fetchAddr = some i)
    (hc : romCheck i s = none) (hend : i ≠ .endSeq) : Continues i := by
  obtain ⟨hrom, hwf | ⟨o, rfl⟩, -⟩ := fetchInstr_some hf
  · exact ⟨hrom, hwf, hend, by rintro b rfl; cases hc⟩
  · cases hc

/-! ### An instruction whose checks pass -/

/-- XFER_OPEN after an instruction (R23). -/
def openAfter (i : Instr) (s : State) : Bool :=
  match i with
  | .start => true
  | .endx => false
  | _ => s.xferOpen

/-- XFER_SEEN after an instruction (R24). -/
def seenAfter (i : Instr) (s : State) : Bool :=
  match i with
  | .endx => true
  | _ => s.xferSeen

/-- `t` is `s` after the instruction `i` of its stored sequence. -/
structure InstrDone (i : Instr) (s t : State) : Prop where
  atNext : AtInstruction t
  keeps : SequenceKeeps s t
  fetchAddr : t.fetchAddr = s.fetchAddr + i.len
  xferOpen : t.xferOpen = openAfter i s
  xferSeen : t.xferSeen = seenAfter i s

/-- SEQ_PC moves on as an instruction's last effect. -/
theorem InstrDone.of_advance {i : Instr} {s u : State} (hs : AtInstruction s)
    (hf : fetchInstr s.cfg s.fetchAddr = some i) (hu : AtInstruction u) (hkeeps : SequenceKeeps s u)
    (haddr : u.fetchAddr = s.fetchAddr) (hopen : u.xferOpen = openAfter i s) (hseen : u.xferSeen = seenAfter i s) :
    InstrDone i s (u.advance i.len) where
  atNext :=
    { notReset := by simp [hu.notReset]
      inSeq := by simp [hu.inSeq]
      noneUnderWay := by simp [hu.noneUnderWay]
      answers := by simp [hu.answers]
      romSize := by simp [hu.romSize] }
  keeps := hkeeps.trans (by constructor <;> simp)
  fetchAddr := by
    have hfits := (fetchInstr_fits hf).2
    have hsize := hs.romSize
    rw [fetchAddr_advance (by omega), haddr]
  xferOpen := by simp [hopen]
  xferSeen := by simp [hseen]

/-- The end of a delay is the end of its DLY. -/
theorem InstrDone.wakes {i : Instr} {s t : State} (h : InstrDone i s t) (ms : Nat) :
    InstrDone i s { t with dlyCnt := 0, phase := .seq, waitedMs := ms } where
  atNext := { h.atNext with inSeq := rfl }
  keeps := { h.keeps with }
  fetchAddr := h.fetchAddr
  xferOpen := h.xferOpen
  xferSeen := h.xferSeen

theorem exec_start_of_check {s : State} (hc : startCheck s = none) :
    exec .start s = present .startTransfer s fun t => t.openXfer.advance 1 := by
  simp only [exec, execStart, hc, checked_none]

theorem exec_endx_of_check {s : State} (hc : endxCheck s = none) :
    exec .endx s = present .endTransfer s fun t => t.closeXfer.markSeen.advance 1 := by
  simp only [exec, execEndx, hc, checked_none]

theorem exec_cmd_of_check {s : State} {op : Byte} (hc : insideCheck s = none) :
    exec (.cmd op) s = present (.sendCommand op) s fun t => t.advance 2 := by
  simp only [exec, execCmd, hc, checked_none]

theorem exec_dly_of_check {s : State} {d : Byte} (hc : insideCheck s = none) :
    exec (.dly d) s = present (.delay d) s fun t => (t.advance 2).loadDelay d := by
  simp only [exec, execDly, hc, checked_none]

/-- The first execution of a CMDA presents its SendCommand (R104). -/
theorem exec_cmda_of_check {s : State} {op : Byte} {args : List Byte} (hc : cmdaCheck args s = none)
    (hsent : s.cmdSent = false) : exec (.cmda op args) s = present (.sendCommand op) s State.commandSent := by
  simp only [exec, execCmda, hc, checked_none, presentCommandArgs, commandEvent, hsent, Bool.false_eq_true, if_false]

/-- The second presents its SendArgs (R104). -/
theorem exec_cmda_of_check_sent {s : State} {op : Byte} {args : List Byte} (hc : cmdaCheck args s = none)
    (hsent : s.cmdSent = true) :
    exec (.cmda op args) s = present (.sendArgs args) s fun t => t.argsSent.advance (3 + args.length) := by
  simp only [exec, execCmda, hc, checked_none, presentCommandArgs, commandEvent, hsent, if_true]

/-- DLY_CNT loaded, with the wait that a duration above 0 takes (R105, R106). -/
theorem loadDelay_elapses {s : State} (hr : s.rst = none) (hp : s.phase = .seq) (d : Byte) :
    ∃ ms, Reaches (s.loadDelay d) { s with dlyCnt := 0, phase := .seq, waitedMs := ms } := by
  by_cases hd : d = 0
  · subst hd
    exact ⟨s.waitedMs, by rw [← hp]; exact .refl _⟩
  · exact wait_elapses (s.loadDelay d) hr (if_neg hd)

theorem AtInstruction.delivers {s : State} (h : AtInstruction s) {i : Instr} {e : BusEvent} {go : State → State}
    (hf : fetchInstr s.cfg s.fetchAddr = some i)
    (hexec : ∀ b, exec i { s with bus := b } = present e { s with bus := b } go) : Reaches s (go (Machine.eventTaken e s)) :=
  fetched_delivers h.notReset h.inSeq h.answers hf hexec

/-- A CMDA has its two bus calls, one after the other (R104). -/
theorem cmda_runs {s : State} {op : Byte} {args : List Byte} (hs : AtInstruction s)
    (hf : fetchInstr s.cfg s.fetchAddr = some (.cmda op args)) (hc : cmdaCheck args s = none) :
    ∃ t, Reaches s t ∧ InstrDone (.cmda op args) s t := by
  have hsend := hs.delivers hf fun _ => exec_cmda_of_check hc hs.noneUnderWay
  have hans : (eventTaken (.sendCommand op) s).commandSent.busAnswers = true := (hs.eventTaken (.sendCommand op)).answers
  have hargs := fetched_delivers (s := (eventTaken (.sendCommand op) s).commandSent) hs.notReset hs.inSeq hans hf
    fun _ => exec_cmda_of_check_sent hc rfl
  rw [show 3 + args.length = (Instr.cmda op args).len by simp only [Instr.len, romBytes, encode, List.length_cons]; omega]
    at hargs
  refine ⟨_, hsend.trans hargs, .of_advance hs hf ?_ (by constructor <;> simp) (fetchAddr_congr (by simp) (by simp))
    (by simp [openAfter]) (by simp [seenAfter])⟩
  exact
    { notReset := by simp [hs.notReset]
      inSeq := by simp [hs.inSeq]
      noneUnderWay := rfl
      answers := busAnswers_eventTaken (e := .sendArgs args) hans
      romSize := by simp [hs.romSize] }

/-- A DLY has its bus call, and its wait (R105). -/
theorem dly_runs {s : State} {d : Byte} (hs : AtInstruction s) (hf : fetchInstr s.cfg s.fetchAddr = some (.dly d))
    (hc : insideCheck s = none) : ∃ t, Reaches s t ∧ InstrDone (.dly d) s t := by
  have hdone : InstrDone (.dly d) s ((eventTaken (.delay d) s).advance 2) :=
    .of_advance hs hf (hs.eventTaken (.delay d)) (.eventTaken (.delay d) s) rfl rfl rfl
  obtain ⟨ms, hwait⟩ := loadDelay_elapses hdone.atNext.notReset hdone.atNext.inSeq d
  exact ⟨_, (hs.delivers hf fun _ => exec_dly_of_check hc).trans hwait, hdone.wakes ms⟩

/-- An instruction whose checks pass has its effect in the end. -/
theorem instr_runs {s : State} {i : Instr} (hs : AtInstruction s) (hf : fetchInstr s.cfg s.fetchAddr = some i)
    (hc : romCheck i s = none) (hend : i ≠ .endSeq) : ∃ t, Reaches s t ∧ InstrDone i s t := by
  cases i with
  | start =>
    have hdone : InstrDone .start s ((eventTaken .startTransfer s).openXfer.advance 1) :=
      .of_advance hs hf { hs.eventTaken .startTransfer with } { SequenceKeeps.eventTaken .startTransfer s with } rfl rfl rfl
    exact ⟨_, hs.delivers hf fun _ => exec_start_of_check hc, hdone⟩
  | endx =>
    have hdone : InstrDone .endx s ((eventTaken .endTransfer s).closeXfer.markSeen.advance 1) :=
      .of_advance hs hf { hs.eventTaken .endTransfer with } { SequenceKeeps.eventTaken .endTransfer s with } rfl rfl rfl
    exact ⟨_, hs.delivers hf fun _ => exec_endx_of_check hc, hdone⟩
  | cmd op =>
    have hdone : InstrDone (.cmd op) s ((eventTaken (.sendCommand op) s).advance 2) :=
      .of_advance hs hf (hs.eventTaken (.sendCommand op)) (.eventTaken (.sendCommand op) s) rfl rfl rfl
    exact ⟨_, hs.delivers hf fun _ => exec_cmd_of_check hc, hdone⟩
  | cmda op args => exact cmda_runs hs hf hc
  | dly d => exact dly_runs hs hf hc
  | endSeq => exact absurd rfl hend
  | reserved b => cases hc
  | _ => cases (fetchInstr_some hf).1

/-! ### The shape of what is left to run -/

/-- Whether a list of instructions is the rest of a well-formed sequence (R82) where the bracket flags are these. -/
def shapeRest (isOpen seen : Bool) (is : List Instr) : Bool :=
  if isOpen then bodyShape is
  else if seen then decide (is = [.endSeq])
  else sequenceShape is

theorem bodyShape_endx (is : List Instr) : bodyShape (.endx :: is) = decide (is = [.endSeq]) := by
  match is with
  | [.endSeq] => rfl
  | [] => rfl
  | i :: j :: js => simp [bodyShape, isBody]
  | [i] => cases i <;> rfl

/-- An instruction whose checks pass keeps the shape. -/
theorem shapeRest_cons {s : State} {i : Instr} (hi : Continues i) (hc : romCheck i s = none) (is : List Instr) :
    shapeRest s.xferOpen s.xferSeen (i :: is) = shapeRest (openAfter i s) (seenAfter i s) is := by
  cases i with
  | start =>
    obtain ⟨hopen, hseen⟩ := startCheck_eq_none.mp hc
    rw [hopen, hseen]; rfl
  | endx =>
    rw [endxCheck_eq_none.mp hc]; exact bodyShape_endx is
  | cmd _ =>
    have hopen : s.xferOpen = true := insideCheck_eq_none.mp hc
    simp only [shapeRest, openAfter, hopen, if_true]; rfl
  | cmda _ _ =>
    have hopen := (cmdaCheck_eq_none.mp hc).2
    simp only [shapeRest, openAfter, hopen, if_true]; rfl
  | dly _ =>
    have hopen : s.xferOpen = true := insideCheck_eq_none.mp hc
    simp only [shapeRest, openAfter, hopen, if_true]; rfl
  | endSeq => exact absurd rfl hi.notEnd
  | reserved b => exact absurd rfl (hi.notReserved b)
  | _ => cases hi.inRom

/-- Where a list with head `i` is the rest of a well-formed sequence, `i` is the instruction that the flags ask for. -/
theorem head_of_shapeRest {isOpen seen : Bool} {i : Instr} {is : List Instr}
    (h : shapeRest isOpen seen (i :: is) = true) :
    (isOpen = true ∧ (i = .endx ∨ isBody i = true)) ∨ (isOpen = false ∧ seen = false ∧ i = .start) ∨
    (isOpen = false ∧ seen = true ∧ i = .endSeq) := by
  unfold shapeRest at h
  split at h
  · rename_i ho
    unfold bodyShape at h
    split at h
    · rename_i he; exact .inl ⟨ho, .inl (List.cons.inj he).1⟩
    · rename_i he
      rw [(List.cons.inj he).1]
      exact .inl ⟨ho, .inr (Bool.and_eq_true_iff.mp h).1⟩
    · cases h
  · rename_i ho
    split at h
    · rename_i hs
      exact .inr (.inr ⟨by simpa using ho, hs, (List.cons.inj (of_decide_eq_true h)).1⟩)
    · rename_i hs
      unfold sequenceShape at h
      split at h
      · rename_i he; exact .inr (.inl ⟨by simpa using ho, by simpa using hs, (List.cons.inj he).1⟩)
      · cases h

/-- Where it is, the checks of a legal instruction pass. -/
theorem romCheck_of_shapeRest {s : State} {i : Instr} {is : List Instr} (hwf : i.wf = true)
    (h : shapeRest s.xferOpen s.xferSeen (i :: is) = true) : romCheck i s = none := by
  rcases head_of_shapeRest h with ⟨ho, rfl | hbody⟩ | ⟨ho, hs, rfl⟩ | ⟨ho, hs, rfl⟩
  · exact endxCheck_eq_none.mpr ho
  · cases i with
    | cmd _ => exact insideCheck_eq_none.mpr ho
    | cmda _ args => exact cmdaCheck_eq_none.mpr ⟨(by rintro rfl; cases hwf), ho⟩
    | dly _ => exact insideCheck_eq_none.mpr ho
    | _ => cases hbody
  · exact startCheck_eq_none.mpr ⟨ho, hs⟩
  · exact endCheck_eq_none.mpr ⟨ho, hs⟩

/-- Whether what is left to run of a stored sequence is the rest of a well-formed one (R82). -/
def restWf (fuel : Nat) (s : State) : Bool :=
  (decodeFrom s.cfg fuel s.fetchAddr).any (shapeRest s.xferOpen s.xferSeen)

theorem wfSequence_eq_restWf {base : Half} {s : State} (h : AtSequence base s) :
    wfSequence s.cfg base = restWf s.cfg.seqMemSize s := by
  have haddr : s.fetchAddr = base.toNat := by simp [State.fetchAddr, h.notPast, h.atBase]
  rw [restWf, haddr, h.closed, h.unseen, wfSequence, decodeSequence]
  cases decodeFrom s.cfg s.cfg.seqMemSize base.toNat <;> rfl

theorem restWf_of_fetch_none {s : State} (fuel : Nat) (hf : fetchInstr s.cfg s.fetchAddr = none) :
    restWf fuel s = false := by
  cases fuel with
  | zero => rfl
  | succ fuel => rw [restWf, decodeFrom, hf]; rfl

theorem restWf_of_endSeq {s : State} (fuel : Nat) (hf : fetchInstr s.cfg s.fetchAddr = some .endSeq)
    (hc : endCheck s = none) : restWf (fuel + 1) s = true := by
  obtain ⟨ho, hs⟩ := endCheck_eq_none.mp hc
  rw [restWf, decodeFrom_endSeq fuel hf, ho, hs]
  rfl

/-- An instruction that has run leaves the rest. -/
theorem restWf_of_done {s t : State} {i : Instr} (fuel : Nat) (hf : fetchInstr s.cfg s.fetchAddr = some i)
    (hi : Continues i) (hc : romCheck i s = none) (ht : InstrDone i s t) : restWf (fuel + 1) s = restWf fuel t := by
  have hshape : ∀ is, shapeRest s.xferOpen s.xferSeen (i :: is) = shapeRest t.xferOpen t.xferSeen is := fun is => by
    rw [ht.xferOpen, ht.xferSeen]
    exact shapeRest_cons hi hc is
  simp only [restWf, decodeFrom_continues fuel hf hi, Option.any_map, hshape, ht.fetchAddr, ht.keeps.cfg]

/-- What decodes has the instruction at its address for its head, and that is a legal one (R81). -/
theorem decodeFrom_head {c : Config} {fuel addr : Nat} {i : Instr} {is : List Instr} (hf : fetchInstr c addr = some i)
    (h : decodeFrom c (fuel + 1) addr = some is) : i.wf = true ∧ ∃ rest, is = i :: rest := by
  obtain ⟨hrom, hwf | ⟨o, rfl⟩, -⟩ := fetchInstr_some hf
  · refine ⟨hwf, ?_⟩
    by_cases hend : i = .endSeq
    · subst hend
      rw [decodeFrom_endSeq fuel hf] at h
      cases h
      exact ⟨[], rfl⟩
    by_cases hres : ∃ b, i = .reserved b
    · obtain ⟨b, rfl⟩ := hres
      rw [decodeFrom, hf] at h
      cases h
    · rw [decodeFrom_continues fuel hf ⟨hrom, hwf, hend, fun b hb => hres ⟨b, hb⟩⟩, Option.map_eq_some_iff] at h
      obtain ⟨rest, -, rfl⟩ := h
      exact ⟨rest, rfl⟩
  · rw [decodeFrom, hf] at h
    cases h

/-- An instruction that raises a ConfigFault stands where the rest is not well-formed. -/
theorem restWf_of_check_fails {s : State} {i : Instr} {cause : FaultCause} (fuel : Nat)
    (hf : fetchInstr s.cfg s.fetchAddr = some i) (hc : romCheck i s = some cause) : restWf (fuel + 1) s = false := by
  by_contra hne
  obtain ⟨is, hdec, hshape⟩ := (Option.any_eq_true _ _).mp (by simpa using hne : restWf (fuel + 1) s = true)
  obtain ⟨hwf, rest, rfl⟩ := decodeFrom_head hf hdec
  simp [romCheck_of_shapeRest hwf hshape] at hc

/-! ### The run -/

/-- How a stored sequence stops: at an END whose checks pass, or in a step that raises a ConfigFault. -/
def StopsWell (ok : Bool) (s : State) : Prop :=
  match ok with
  | true => fetchInstr s.cfg s.fetchAddr = some .endSeq ∧ endCheck s = none
  | false => ∃ cause, cause ≠ .none ∧ step s = .next (configFaulted cause s)

theorem stopsWell_of_fetch_none {s : State} (fuel : Nat) (hs : AtInstruction s)
    (hf : fetchInstr s.cfg s.fetchAddr = none) : StopsWell (restWf fuel s) s := by
  rw [restWf_of_fetch_none fuel hf]
  exact ⟨.fetchRange, by simp, step_of_fetch_none hs.notReset hs.inSeq hf⟩

/-- A stored sequence stops, and in the way that the shape of the rest tells. Every instruction takes a byte of the ROM, so
`fuel` bounds how many are left. -/
theorem sequence_stops (fuel : Nat) {s : State} (hs : AtInstruction s) (hfuel : s.cfg.seqMemSize ≤ fuel + s.fetchAddr) :
    ∃ u, Reaches s u ∧ AtInstruction u ∧ SequenceKeeps s u ∧ StopsWell (restWf fuel s) u := by
  induction fuel generalizing s with
  | zero =>
    have hf : fetchInstr s.cfg s.fetchAddr = none := by
      by_contra hne
      obtain ⟨i, hf⟩ := Option.ne_none_iff_exists'.mp hne
      have := fetchInstr_fits hf
      omega
    exact ⟨s, .refl s, hs, .refl s, stopsWell_of_fetch_none 0 hs hf⟩
  | succ fuel ih =>
    cases hf : fetchInstr s.cfg s.fetchAddr with
    | none => exact ⟨s, .refl s, hs, .refl s, stopsWell_of_fetch_none _ hs hf⟩
    | some i =>
      have hrom := (fetchInstr_some hf).1
      cases hc : romCheck i s with
      | some cause =>
        refine ⟨s, .refl s, hs, .refl s, ?_⟩
        rw [restWf_of_check_fails fuel hf hc]
        exact ⟨cause, romCheck_ne_none hrom hc, by rw [step_of_fetch hs.notReset hs.inSeq hf, exec_of_check_fails hrom hc]⟩
      | none =>
        by_cases hend : i = .endSeq
        · subst hend
          refine ⟨s, .refl s, hs, .refl s, ?_⟩
          rw [restWf_of_endSeq fuel hf hc]
          exact ⟨hf, hc⟩
        · obtain ⟨t, hrun, ht⟩ := instr_runs hs hf hc hend
          have hfits := fetchInstr_fits hf
          obtain ⟨u, hrun', hu, hkeeps, hstop⟩ := ih ht.atNext (by rw [ht.keeps.cfg, ht.fetchAddr]; omega)
          rw [restWf_of_done fuel hf (continues_of_fetch hf hc hend) hc ht]
          exact ⟨u, hrun.trans hrun', hu, ht.keeps.trans hkeeps, hstop⟩

/-- Settles O48: the sequence stops as `sequence_stops` says, and END hands over or ends the message without a fault. -/
theorem storedSequenceFaultsExactlyWhenMalformed : Obligations.StoredSequenceFaultsExactlyWhenMalformed := by
  intro s base hat hans hready hdone hfault hsize
  have hs : AtInstruction s := ⟨hat.notReset, hat.inSeq, hat.noneUnderWay, hans, hsize⟩
  obtain ⟨u, hrun, hu, hkeeps, hstop⟩ := sequence_stops s.cfg.seqMemSize hs (Nat.le_add_right _ _)
  rw [← wfSequence_eq_restWf hat] at hstop
  constructor
  · intro hwf
    rw [hwf] at hstop
    obtain ⟨hend, hc⟩ := hstop
    have hexec : exec .endSeq u = .next u.seqDone := by simp only [exec, execEnd, hc, checked_none]
    refine ⟨u, _, hrun, hu.inSeq, hend, hkeeps.seqQ, hkeeps.fault.trans hfault, hexec, ?_⟩
    rcases seqDone_cases u with ⟨b, q, -, he⟩ | ⟨-, he⟩ <;> rw [he] <;> exact hkeeps.fault.trans hfault
  · intro hwf
    rw [hwf] at hstop
    obtain ⟨cause, hcause, hstep⟩ := hstop
    exact ⟨_, hrun.trans (.one hstep), rfl, rfl, hcause, hkeeps.seqQ, hkeeps.pstate, hkeeps.ramValid, hkeeps.result,
      hkeeps.done.trans hdone, hkeeps.ready.trans hready⟩

end Sys2Proof.Machine
end

section
/-!
PROOF. The interpreter's instructions one by one (40_sequence_interpreter.md R101 to R105, R107): the effect where the
checks pass and the bus takes the event, and the ConfigFault where a check fails.
-/
namespace Sys2Proof.Machine

/-- Settles O4: the checks of START pass, or the first one that fails gives the cause. -/
theorem startOpensTheBracketOrFaults : Obligations.StartOpensTheBracketOrFaults := by
  refine ⟨rfl, fun s => ⟨fun hopen hseen hbus => ⟨_, ?_, advance_moved 1 _⟩, fun hopen => ?_, fun hopen hseen => ?_⟩⟩
  · exact (exec_start_of_check (startCheck_eq_none.mpr ⟨hopen, hseen⟩)).trans (present_of_takes hbus)
  · exact exec_of_check_fails rfl (if_pos hopen)
  · exact exec_of_check_fails rfl ((if_neg (by simp [hopen])).trans (if_pos hseen))

/-- Settles O5: the one check of ENDX passes where a bracket is open. -/
theorem endxClosesTheBracketOrFaults : Obligations.EndxClosesTheBracketOrFaults := by
  refine ⟨rfl, fun s => ⟨fun hopen hbus => ⟨_, ?_, advance_moved 1 _⟩, fun hopen => ?_⟩⟩
  · exact (exec_endx_of_check (endxCheck_eq_none.mpr hopen)).trans (present_of_takes hbus)
  · exact exec_of_check_fails rfl (if_neg (by simp [hopen]))

theorem insideCheck_of_closed {s : State} (h : s.xferOpen = false) : insideCheck s = some .outsideTransfer :=
  if_neg (by simp [h])

/-- Settles O6: the one check of CMD passes inside a bracket. -/
theorem cmdSendsTheCommandByteOrFaults : Obligations.CmdSendsTheCommandByteOrFaults := by
  refine fun s o => ⟨fun hopen hbus => ⟨_, ?_, advance_moved 2 _⟩, fun hopen => ?_⟩
  · exact (exec_cmd_of_check (insideCheck_eq_none.mpr hopen)).trans (present_of_takes hbus)
  · exact exec_of_check_fails rfl (insideCheck_of_closed hopen)

/-! ### CMDA -/

/-- The first execution of a CMDA on a bus that takes the event. -/
theorem exec_cmda_command {s : State} {op : Byte} {args : List Byte} (hc : cmdaCheck args s = none)
    (hsent : s.cmdSent = false) (hbus : s.busTakes = true) :
    exec (.cmda op args) s = .next (eventTaken (.sendCommand op) s).commandSent :=
  (exec_cmda_of_check hc hsent).trans (present_of_takes hbus)

/-- The second execution of a CMDA on a bus that takes the event. -/
theorem exec_cmda_args {s : State} {op : Byte} {args : List Byte} (hc : cmdaCheck args s = none)
    (hsent : s.cmdSent = true) (hbus : s.busTakes = true) :
    exec (.cmda op args) s = .next ((eventTaken (.sendArgs args) s).argsSent.advance (3 + args.length)) :=
  (exec_cmda_of_check_sent hc hsent).trans (present_of_takes hbus)

/-- Both bus calls of a CMDA have been accepted: what is left to do is to move SEQ_PC (R104). -/
theorem cmda_events_taken {s : State} (op : Byte) (args : List Byte) (hsent : s.cmdSent = false) :
    (eventTaken (.sendArgs args) (eventTaken (.sendCommand op) s).commandSent).argsSent =
      { s with trace := s.trace ++ [.sendCommand op, .sendArgs args], bus := s.bus.drop 2 } := by
  have hbus : s.bus.tail.tail = s.bus.drop 2 := by rw [← List.drop_one, List.drop_tail]
  simp [eventTaken, State.commandSent, State.argsSent, hsent, hbus]

/-- Settles O7: the checks of CMDA pass inside a bracket where there is an argument; its two executions send its two
events. -/
theorem cmdaSendsTheCommandThenItsArgumentsOrFaults : Obligations.CmdaSendsTheCommandThenItsArgumentsOrFaults := by
  intro s o args
  have hcheck : s.xferOpen = true → 1 ≤ args.length → cmdaCheck args s = none := fun hopen hlen =>
    cmdaCheck_eq_none.mpr ⟨List.ne_nil_of_length_pos hlen, hopen⟩
  refine ⟨fun hopen hsent hlen _ hbus => exec_cmda_command (hcheck hopen hlen) hsent hbus,
    fun hopen hsent hlen _ hbus => ⟨_, exec_cmda_args (hcheck hopen hlen) hsent hbus, advance_moved _ _⟩,
    fun hopen hsent hlen _ hbus hbus' => ?_, fun hopen hlen _ => ?_, fun hargs => ?_⟩
  · rw [← cmda_events_taken o args hsent]
    exact ⟨_, _, exec_cmda_command (hcheck hopen hlen) hsent hbus,
      exec_cmda_args (s := (eventTaken (.sendCommand o) s).commandSent) (hcheck hopen hlen) rfl hbus', advance_moved _ _⟩
  · exact exec_of_check_fails rfl ((if_neg (List.ne_nil_of_length_pos hlen)).trans (insideCheck_of_closed hopen))
  · exact exec_of_check_fails rfl (if_pos hargs)

/-! ### DLY -/

/-- SEQ_PC moved and DLY_CNT loaded: the order does not matter. -/
theorem loadDelay_advance (n : Nat) (d : Byte) (s : State) : (s.advance n).loadDelay d = (s.loadDelay d).advance n := by
  unfold State.advance
  exact apply_ite (State.loadDelay d) _ _ _

theorem loadDelay_zero (s : State) : s.loadDelay 0 = { s with dlyCnt := 0 } := rfl

theorem loadDelay_stalls {d : Byte} (hd : d ≠ 0) (s : State) : s.loadDelay d = { s with dlyCnt := d, phase := .wait } := by
  rw [State.loadDelay, if_neg hd]

theorem exec_dly_taken {s : State} (d : Byte) (hopen : s.xferOpen = true) (hbus : s.busTakes = true) :
    exec (.dly d) s = .next (((eventTaken (.delay d) s).loadDelay d).advance 2) := by
  rw [← loadDelay_advance]
  exact (exec_dly_of_check (insideCheck_eq_none.mpr hopen)).trans (present_of_takes hbus)

/-- Settles O8: DLY loads DLY_CNT, and stalls where the duration is not 0. -/
theorem dlyEmitsTheDelayAndLoadsTheCounterOrFaults : Obligations.DlyEmitsTheDelayAndLoadsTheCounterOrFaults := by
  refine fun s d => ⟨fun hopen hbus hd => ⟨_, exec_dly_taken d hopen hbus, ?_⟩,
    fun hopen hbus hd => ⟨_, exec_dly_taken d hopen hbus, ?_⟩, fun hopen => ?_⟩
  · subst hd
    exact advance_moved 2 _
  · rw [← loadDelay_stalls hd]
    exact advance_moved 2 _
  · exact exec_of_check_fails rfl (insideCheck_of_closed hopen)

/-! ### END -/

theorem exec_endSeq_of_check {s : State} (hc : endCheck s = none) : exec .endSeq s = .next s.seqDone := by
  simp only [exec, execEnd, hc, checked_none]

theorem seqDone_cons {s : State} {b : Half} {q : List Half} (h : s.seqQ = b :: q) :
    s.seqDone = sequenceStarted b { s with seqQ := q } := by
  simp only [State.seqDone, h]; rfl

theorem seqDone_nil {s : State} (h : s.seqQ = []) : s.seqDone = s.finish true := by
  simp only [State.seqDone, h]

/-- A message that ends with success sets PSTATE to PEND_PS, unless that is KEEP (R203). -/
theorem finishPState_true (s : State) : s.finishPState true = s.pendPs.getD s.pstate := by
  unfold State.finishPState
  cases s.pendPs <;> rfl

/-- Settles O9: the check of END passes where the bracket has been opened and closed; then SEQ_Q decides. -/
theorem endHandsOverOrFaults : Obligations.EndHandsOverOrFaults := by
  intro s
  have hexec : s.xferOpen = false → s.xferSeen = true → exec .endSeq s = .next s.seqDone := fun hopen hseen =>
    exec_endSeq_of_check (endCheck_eq_none.mpr ⟨hopen, hseen⟩)
  refine ⟨fun hopen => ?_, fun hopen hseen => ?_, fun b q hopen hseen hq => ?_,
    fun hopen hseen hq => ⟨s.finishRamValid true, ?_⟩⟩
  · exact exec_of_check_fails rfl (if_pos hopen)
  · exact exec_of_check_fails rfl ((if_neg (by simp [hopen])).trans (if_neg (by simp [hseen])))
  · rw [hexec hopen hseen, seqDone_cons hq]
  · rw [hexec hopen hseen, seqDone_nil hq, ← finishPState_true]
    rfl

end Sys2Proof.Machine
end

section
/-!
PROOF. The fetch of a step in SEQ (40_sequence_interpreter.md R108), and the delay counter (R106).
-/
namespace Sys2Proof.Machine

theorem fetchAddr_of_not_past {s : State} (h : s.pcPastTop = false) : s.fetchAddr = s.seqPc.toNat := by
  simp only [State.fetchAddr, h, Bool.false_eq_true, if_false]

/-- Settles O23: the fetch reads the instruction whose encoding stands at SEQ_PC. -/
theorem stepRunsTheInstructionAtSeqPc : Obligations.StepRunsTheInstructionAtSeqPc := by
  intro s i hr hp hpast hrom hwf hmem
  refine step_of_fetch hr hp ?_
  rw [fetchAddr_of_not_past hpast]
  exact fetchInstr_romBytes hrom hwf hmem

/-- A tick in WAIT that is not the last one. -/
theorem step_wait_ticks {s : State} (hr : s.rst = none) (hp : s.phase = .wait) (hd : 1 < s.dlyCnt.toNat) :
    step s = .next { s with dlyCnt := s.dlyCnt - 1, waitedMs := s.waitedMs + 1 } := by
  simp only [step, hr, hp, stepWait, if_neg (Nat.not_le.mpr hd)]

/-- The last tick in WAIT. -/
theorem step_wait_wakes {s : State} (hr : s.rst = none) (hp : s.phase = .wait) (hd : s.dlyCnt.toNat ≤ 1) :
    step s = .next { s with dlyCnt := 0, phase := .seq, waitedMs := s.waitedMs + s.dlyCnt.toNat } := by
  simp only [step, hr, hp, stepWait, if_pos hd]

/-- `s` after `k` ticks in WAIT, of which none is the last one. -/
def State.ticked (k : Nat) (s : State) : State :=
  { s with dlyCnt := s.dlyCnt - BitVec.ofNat 8 k, waitedMs := s.waitedMs + k }

theorem ticked_dlyCnt_toNat {s : State} {k : Nat} (hk : k < s.dlyCnt.toNat) :
    (s.ticked k).dlyCnt.toNat = s.dlyCnt.toNat - k := by
  simp only [State.ticked]
  bv_omega

theorem ticked_succ (k : Nat) (s : State) :
    s.ticked (k + 1) = { s.ticked k with dlyCnt := (s.ticked k).dlyCnt - 1, waitedMs := (s.ticked k).waitedMs + 1 } := by
  have hcnt : s.dlyCnt - BitVec.ofNat 8 (k + 1) = s.dlyCnt - BitVec.ofNat 8 k - 1 := by bv_omega
  simp only [State.ticked, hcnt, Nat.add_assoc]

theorem steps_ticked {s : State} (hr : s.rst = none) (hp : s.phase = .wait) :
    ∀ k, k < s.dlyCnt.toNat → Steps k s (s.ticked k)
  | 0, _ => by simpa [State.ticked] using Steps.refl s
  | k + 1, hk => by
    have hlast : 1 < (s.ticked k).dlyCnt.toNat := by rw [ticked_dlyCnt_toNat (by omega)]; omega
    rw [ticked_succ]
    exact (steps_ticked hr hp k (by omega)).trans (.one (step_wait_ticks hr hp hlast))

/-- Settles O28: all ticks but the last count DLY_CNT down to 1; the last one leads back to SEQ. -/
theorem delayCounterCountsDownToZero : Obligations.DelayCounterCountsDownToZero := by
  intro s hr hp hd
  refine ⟨steps_ticked hr hp, ?_⟩
  obtain ⟨k, hk⟩ : ∃ k, s.dlyCnt.toNat = k + 1 := ⟨s.dlyCnt.toNat - 1, by bv_omega⟩
  have hone : (s.ticked k).dlyCnt.toNat = 1 := by rw [ticked_dlyCnt_toNat (by omega)]; omega
  have hlast := step_wait_wakes (s := s.ticked k) hr hp (Nat.le_of_eq hone)
  rw [hone] at hlast
  rw [hk]
  exact (steps_ticked hr hp k (by omega)).trans (.one hlast)

end Sys2Proof.Machine
end

section
/-!
PROOF. A well-formed stored sequence runs to its END with exactly its trace and its delays (40_sequence_interpreter.md
R110).

`State.hasRun` says what instructions of a stored sequence leave behind. One instruction does so (`instr_has_run`), what
two parts leave behind adds up (`hasRun_hasRun`), and the decoding of R81 tells which instructions come
(`decodeFrom_some`).
-/
namespace Sys2Proof.Machine

/-! ### What instructions of a stored sequence leave behind -/

/-- The events of an instruction of a stored sequence, those of the bracket among them (R101 to R105, R110). -/
def romEvents : Instr → List BusEvent
  | .start => [.startTransfer]
  | .endx => [.endTransfer]
  | i => bodyEvents i

/-- `s` after the instructions `is` of a stored sequence, with SEQ_PC, DLY_CNT and the bracket flags as given. -/
def State.hasRun (is : List Instr) (pc : Half) (dly : Byte) (isOpen seen : Bool) (s : State) : State :=
  { s with
    seqPc := pc
    dlyCnt := dly
    xferOpen := isOpen
    xferSeen := seen
    trace := s.trace ++ is.flatMap romEvents
    bus := s.bus.drop (is.flatMap romEvents).length
    waitedMs := s.waitedMs + delaySum is }

theorem hasRun_hasRun (is is' : List Instr) (pc pc' : Half) (dly dly' : Byte) (isOpen isOpen' seen seen' : Bool)
    (s : State) :
    (s.hasRun is pc dly isOpen seen).hasRun is' pc' dly' isOpen' seen' = s.hasRun (is ++ is') pc' dly' isOpen' seen' := by
  simp [State.hasRun, delaySum_append, Nat.add_assoc]

/-- The END that is left leaves nothing behind. -/
theorem hasRun_endSeq (s : State) : s.hasRun [.endSeq] s.seqPc s.dlyCnt s.xferOpen s.xferSeen = s := by
  simp [State.hasRun, romEvents, bodyEvents, delaySum, delayOf]

theorem AtInstruction.hasRun {s : State} (h : AtInstruction s) (is : List Instr) (pc : Half) (dly : Byte)
    (isOpen seen : Bool) : AtInstruction (s.hasRun is pc dly isOpen seen) :=
  { h with answers := List.all_eq_true.mpr fun r hr => List.all_eq_true.mp h.answers r (List.mem_of_mem_drop hr) }

/-! ### One instruction -/

/-- `s` after the bus has accepted the events of `i`, before SEQ_PC moves. -/
def State.hasSent (i : Instr) (s : State) : State :=
  { s with
    xferOpen := openAfter i s
    xferSeen := seenAfter i s
    trace := s.trace ++ romEvents i
    bus := s.bus.drop (romEvents i).length }

theorem hasSent_of_event {i : Instr} {e : BusEvent} (he : romEvents i = [e]) (s : State) :
    s.hasSent i = { eventTaken e s with xferOpen := openAfter i s, xferSeen := seenAfter i s } := by
  simp only [State.hasSent, he, List.length_singleton, List.drop_one]
  rfl

/-- An instruction has run when SEQ_PC has moved and its delay is over. -/
theorem hasSent_advance {s : State} {i : Instr} (hpast : s.pcPastTop = false) (hlt : s.seqPc.toNat + i.len < 65536)
    (dly : Byte) :
    { (s.hasSent i).advance i.len with dlyCnt := dly, waitedMs := s.waitedMs + delayOf i } =
      s.hasRun [i] (s.seqPc + BitVec.ofNat 16 i.len) dly (openAfter i s) (seenAfter i s) := by
  rw [advance_of_lt (s := s.hasSent i) hpast hlt]
  simp [State.hasRun, State.hasSent, delaySum]

theorem hasSent_advance_of_no_delay {s : State} {i : Instr} (hpast : s.pcPastTop = false)
    (hlt : s.seqPc.toNat + i.len < 65536) (hdelay : delayOf i = 0) :
    (s.hasSent i).advance i.len =
      s.hasRun [i] (s.seqPc + BitVec.ofNat 16 i.len) s.dlyCnt (openAfter i s) (seenAfter i s) := by
  rw [← hasSent_advance hpast hlt, hdelay, advance_of_lt (s := s.hasSent i) hpast hlt]
  rfl

/-- An instruction with one event and no delay has run when the event has been accepted and SEQ_PC has moved. -/
theorem has_run_of_event {s : State} {i : Instr} {e : BusEvent} (hpast : s.pcPastTop = false)
    (hlt : s.seqPc.toNat + i.len < 65536) (he : romEvents i = [e]) (hdelay : delayOf i = 0)
    (hrun : Reaches s (State.advance i.len
      { eventTaken e s with xferOpen := openAfter i s, xferSeen := seenAfter i s })) :
    ∃ dly, Reaches s (s.hasRun [i] (s.seqPc + BitVec.ofNat 16 i.len) dly (openAfter i s) (seenAfter i s)) := by
  rw [← hasSent_of_event he, hasSent_advance_of_no_delay hpast hlt hdelay] at hrun
  exact ⟨_, hrun⟩

theorem len_cmda (op : Byte) (args : List Byte) : (Instr.cmda op args).len = 3 + args.length := by
  simp only [Instr.len, romBytes, encode, List.length_cons]
  omega

/-- A CMDA has both bus calls accepted, and SEQ_PC moves (R104). -/
theorem cmda_delivers {s : State} {op : Byte} {args : List Byte} (hs : AtInstruction s)
    (hf : fetchInstr s.cfg s.fetchAddr = some (.cmda op args)) (hc : cmdaCheck args s = none) :
    Reaches s ((s.hasSent (.cmda op args)).advance (Instr.cmda op args).len) := by
  have hsend := hs.delivers hf fun _ => exec_cmda_of_check hc hs.noneUnderWay
  have hans : (eventTaken (.sendCommand op) s).commandSent.busAnswers = true := (hs.eventTaken (.sendCommand op)).answers
  have hargs := fetched_delivers (s := (eventTaken (.sendCommand op) s).commandSent) hs.notReset hs.inSeq hans hf
    fun _ => exec_cmda_of_check_sent hc rfl
  rw [cmda_events_taken op args hs.noneUnderWay, ← len_cmda op args] at hargs
  exact hsend.trans hargs

/-- DLY_CNT loaded, with exactly the wait that its duration takes (R105, R106). -/
theorem loadDelay_waits {s : State} (hr : s.rst = none) (hp : s.phase = .seq) (d : Byte) :
    Reaches (s.loadDelay d) { s with dlyCnt := 0, waitedMs := s.waitedMs + d.toNat } := by
  by_cases hd : d = 0
  · subst hd
    exact .refl _
  · have hwait := (delayCounterCountsDownToZero (s.loadDelay d) hr (if_neg hd) hd).2
    rw [← hp] at hwait
    exact ⟨_, hwait⟩

/-- A DLY has its bus call accepted, SEQ_PC moves, and its delay goes by (R105). -/
theorem dly_delivers {s : State} {d : Byte} (hs : AtInstruction s)
    (hf : fetchInstr s.cfg s.fetchAddr = some (.dly d)) (hc : insideCheck s = none) :
    Reaches s { (s.hasSent (.dly d)).advance 2 with dlyCnt := 0, waitedMs := s.waitedMs + d.toNat } := by
  have hsend := hs.delivers hf fun _ => exec_dly_of_check hc
  have hwait := loadDelay_waits (s := (eventTaken (.delay d) s).advance 2) (by simp [hs.notReset]) (by simp [hs.inSeq]) d
  rw [State.advance_waitedMs] at hwait
  rw [hasSent_of_event rfl]
  exact hsend.trans hwait

/-- An instruction whose checks pass, and which does not end at the top of the address space, leaves behind what `hasRun`
says. -/
theorem instr_has_run {s : State} {i : Instr} (hs : AtInstruction s) (hpast : s.pcPastTop = false)
    (hf : fetchInstr s.cfg s.fetchAddr = some i) (hi : Continues i) (hc : romCheck i s = none)
    (hlt : s.seqPc.toNat + i.len < 65536) :
    ∃ dly, Reaches s (s.hasRun [i] (s.seqPc + BitVec.ofNat 16 i.len) dly (openAfter i s) (seenAfter i s)) := by
  cases i with
  | start => exact has_run_of_event hpast hlt rfl rfl (hs.delivers hf fun _ => exec_start_of_check hc)
  | endx => exact has_run_of_event hpast hlt rfl rfl (hs.delivers hf fun _ => exec_endx_of_check hc)
  | cmd op => exact has_run_of_event hpast hlt rfl rfl (hs.delivers hf fun _ => exec_cmd_of_check hc)
  | cmda op args =>
    refine ⟨s.dlyCnt, ?_⟩
    rw [← hasSent_advance_of_no_delay hpast hlt rfl]
    exact cmda_delivers hs hf hc
  | dly d =>
    refine ⟨0, ?_⟩
    rw [← hasSent_advance hpast hlt]
    exact dly_delivers hs hf hc
  | endSeq => exact absurd rfl hi.notEnd
  | reserved b => exact absurd rfl (hi.notReserved b)
  | _ => cases hi.inRom

/-! ### The run -/

/-- What decodes is an END, or a legal instruction with what decodes after it (R81). -/
theorem decodeFrom_some {c : Config} {fuel addr : Nat} {is : List Instr} (h : decodeFrom c fuel addr = some is) :
    (fetchInstr c addr = some .endSeq ∧ is = [.endSeq]) ∨
    ∃ i rest fuel', fetchInstr c addr = some i ∧ Continues i ∧ is = i :: rest ∧
      decodeFrom c fuel' (addr + i.len) = some rest := by
  cases fuel with
  | zero => cases h
  | succ fuel =>
    cases hf : fetchInstr c addr with
    | none => rw [decodeFrom, hf] at h; cases h
    | some i =>
      by_cases hend : i = .endSeq
      · subst hend
        rw [decodeFrom_endSeq fuel hf] at h
        exact .inl ⟨rfl, (Option.some.inj h).symm⟩
      · have hres : ∀ b, i ≠ .reserved b := by
          rintro b rfl
          rw [decodeFrom, hf] at h
          cases h
        have hi : Continues i := ⟨(fetchInstr_some hf).1, (decodeFrom_head hf h).1, hend, hres⟩
        rw [decodeFrom_continues fuel hf hi, Option.map_eq_some_iff] at h
        obtain ⟨rest, hrest, rfl⟩ := h
        exact .inr ⟨i, rest, fuel, rfl, hi, rfl, hrest⟩

/-- What decodes starts in the ROM (R51, R81). -/
theorem decodeFrom_fits {c : Config} {fuel addr : Nat} {is : List Instr} (h : decodeFrom c fuel addr = some is) :
    addr < c.seqMemSize := by
  have hfits : ∀ {i}, fetchInstr c addr = some i → addr < c.seqMemSize := fun hf => by
    have := fetchInstr_fits hf
    omega
  rcases decodeFrom_some h with ⟨hf, -⟩ | ⟨i, -, -, hf, -⟩ <;> exact hfits hf

/-- The rest of a well-formed sequence runs to its END. -/
theorem rest_runs {fuel : Nat} {s : State} {is : List Instr} (hs : AtInstruction s) (hpast : s.pcPastTop = false)
    (hdec : decodeFrom s.cfg fuel s.seqPc.toNat = some is) (hshape : shapeRest s.xferOpen s.xferSeen is = true) :
    ∃ pc dly, Reaches s (s.hasRun is pc dly false true) ∧ fetchInstr s.cfg pc.toNat = some .endSeq := by
  induction is generalizing fuel s with
  | nil => rcases decodeFrom_some hdec with ⟨-, he⟩ | ⟨_, _, _, -, -, he, -⟩ <;> cases he
  | cons i is ih =>
    rcases decodeFrom_some hdec with ⟨hf, he⟩ | ⟨_, _, fuel', hf, hi, he, hrest⟩ <;> cases he
    · have hc : endCheck s = none := romCheck_of_shapeRest rfl hshape
      obtain ⟨hopen, hseen⟩ := endCheck_eq_none.mp hc
      refine ⟨s.seqPc, s.dlyCnt, ?_, hf⟩
      rw [← hopen, ← hseen, hasRun_endSeq]
      exact .refl s
    · have hc := romCheck_of_shapeRest hi.wf hshape
      have hlt : s.seqPc.toNat + i.len < 65536 := Nat.lt_of_lt_of_le (decodeFrom_fits hrest) hs.romSize
      have hpc : (s.seqPc + BitVec.ofNat 16 i.len).toNat = s.seqPc.toNat + i.len := by bv_omega
      rw [← fetchAddr_of_not_past hpast] at hf
      obtain ⟨dly, hrun⟩ := instr_has_run hs hpast hf hi hc hlt
      rw [← hpc] at hrest
      rw [shapeRest_cons hi hc] at hshape
      obtain ⟨pc, dly', hrun', hend⟩ := ih (hs.hasRun [i] _ dly _ _) hpast hrest hshape
      rw [hasRun_hasRun] at hrun'
      exact ⟨pc, dly', hrun.trans hrun', hend⟩

/-! ### The trace -/

theorem romEvents_of_isBody {i : Instr} (h : isBody i = true) : romEvents i = bodyEvents i := by
  cases i with
  | start | endx => cases h
  | _ => rfl

theorem romEvents_of_bodyShape {is : List Instr} (h : bodyShape is = true) :
    is.flatMap romEvents = listEvents is ++ [.endTransfer] := by
  induction is with
  | nil => cases h
  | cons i is ih =>
    rcases head_of_shapeRest (isOpen := true) (seen := false) h with ⟨-, rfl | hbody⟩ | ⟨ho, -⟩ | ⟨ho, -⟩
    · rw [bodyShape_endx] at h
      rw [of_decide_eq_true h]
      rfl
    · rw [bodyShape_cons is hbody] at h
      rw [List.flatMap_cons, romEvents_of_isBody hbody, ih h, listEvents, List.append_assoc]
    · cases ho
    · cases ho

theorem romEvents_of_sequenceShape {is : List Instr} (h : sequenceShape is = true) :
    is.flatMap romEvents = .startTransfer :: (listEvents is ++ [.endTransfer]) := by
  unfold sequenceShape at h
  split at h
  · rw [List.flatMap_cons, romEvents_of_bodyShape h]
    rfl
  · cases h

theorem decodes_of_wfSequence {c : Config} {base : Half} (h : wfSequence c base = true) :
    ∃ is, decodeSequence c base = some is ∧ sequenceShape is = true := by
  unfold wfSequence at h
  split at h
  · exact ⟨_, by assumption, h⟩
  · cases h

/-- Settles O47: what decodes runs to its END, and its events and delays are those that R110 and R233 sum up. -/
theorem wellFormedSequenceRunsToItsEnd : Obligations.WellFormedSequenceRunsToItsEnd := by
  intro s base hat hans hsize hwf
  have hs : AtInstruction s := ⟨hat.notReset, hat.inSeq, hat.noneUnderWay, hans, hsize⟩
  obtain ⟨is, hdec, hshape⟩ := decodes_of_wfSequence hwf
  have htrace : sequenceTrace s.cfg base = is.flatMap romEvents := by
    rw [sequenceTrace, hdec, romEvents_of_sequenceShape hshape]
  have hdelay : sequenceDelay s.cfg base = delaySum is := by rw [sequenceDelay, hdec]
  have hrest : shapeRest s.xferOpen s.xferSeen is = true := by rw [hat.closed, hat.unseen]; exact hshape
  rw [decodeSequence, ← hat.atBase] at hdec
  obtain ⟨pc, dly, ⟨n, hrun⟩, hend⟩ := rest_runs hs hat.notPast hdec hrest
  rw [← hat.closed] at hrun
  rw [htrace, hdelay]
  exact ⟨n, pc, dly, hrun, hend⟩

end Sys2Proof.Machine
end

section
/-!
PROOF. The bracket discipline of the bus trace (41_bus_serializer.md R145): a step adds nothing to the trace, or the one
event that the block presents, and that event fits the bracket.
-/
namespace Sys2Proof.Machine

/-! ### The bracket discipline of a trace -/

/-- A trace is scanned event by event. -/
theorem bracketScan_cons (isOpen : Bool) (e : BusEvent) (es : List BusEvent) :
    bracketScan isOpen (e :: es) = (bracketScan isOpen [e]).bind (bracketScan · es) := by
  cases isOpen <;> cases e <;> rfl

/-- A trace is scanned part by part. -/
theorem bracketScan_append (isOpen : Bool) (es fs : List BusEvent) :
    bracketScan isOpen (es ++ fs) = (bracketScan isOpen es).bind (bracketScan · fs) := by
  induction es generalizing isOpen with
  | nil => rfl
  | cons e es ih => rw [List.cons_append, bracketScan_cons, bracketScan_cons isOpen e es, Option.bind_assoc]; simp only [ih]

/-! ### What the operations of a step leave of the bus and the trace -/

/-- An operation of the block that is no handshake: the trace and the bus's coming answers are as before. -/
def KeepsBus (f : State → State) : Prop := ∀ s, (f s).trace = s.trace ∧ (f s).bus = s.bus

@[simp] theorem burstGoesOn_xferOpen (ws : List WindowCommand) (s : State) : (s.burstGoesOn ws).xferOpen = s.xferOpen := by
  cases ws <;> rfl
@[simp] theorem burstGoesOn_trace (ws : List WindowCommand) (s : State) : (s.burstGoesOn ws).trace = s.trace := by
  cases ws <;> rfl
@[simp] theorem burstGoesOn_bus (ws : List WindowCommand) (s : State) : (s.burstGoesOn ws).bus = s.bus := by
  cases ws <;> rfl

/-- A message begins with no event and no bracket (R200, R201). -/
theorem handlerOf_keepsBus (tag : Byte) : KeepsBus (handlerOf tag) := by
  intro s
  rcases handlerOf_cases tag s with ⟨he, -⟩ | ⟨he, -⟩ | ⟨b, q, p, he, -⟩ | ⟨he, -⟩ <;> rw [he] <;> exact ⟨rfl, rfl⟩

theorem handlerOf_xferOpen (tag : Byte) (s : State) : (handlerOf tag s).xferOpen = s.xferOpen := by
  rcases handlerOf_cases tag s with ⟨he, -⟩ | ⟨he, -⟩ | ⟨b, q, p, he, -⟩ | ⟨he, -⟩ <;> rw [he] <;> rfl

/-! ### The event that a step presents -/

theorem presented_of_fetch {s : State} {i : Instr} (hp : s.phase = .seq) (hf : fetchInstr s.cfg s.fetchAddr = some i) :
    s.presented = instrEvent i s := by
  simp only [State.presented, hp, hf]

theorem presented_of_closedWindow {s : State} (hp : s.phase = .drawWin) (ho : s.xferOpen = false) :
    s.presented = some .startTransfer := by
  simp only [State.presented, hp, ho, Bool.false_eq_true, if_false]

theorem presented_of_burst {s : State} {w : WindowCommand} {ws : List WindowCommand} (hp : s.phase = .drawWin)
    (ho : s.xferOpen = true) (hw : s.burst = w :: ws) : s.presented = some (windowEvent w s) := by
  simp only [State.presented, hp, ho, hw, if_true]

theorem windowEvent_of_no_args {w : WindowCommand} (h : w.args = []) (s : State) : windowEvent w s = .sendCommand w.op := by
  simp only [windowEvent, h]

theorem windowEvent_of_args {w : WindowCommand} (h : w.args ≠ []) (s : State) :
    windowEvent w s = commandEvent w.op w.args s := by
  obtain ⟨a, as, ha⟩ := List.exists_cons_of_ne_nil h
  simp only [windowEvent, ha]

theorem commandEvent_of_unsent {op : Byte} {args : List Byte} {s : State} (h : s.cmdSent = false) :
    commandEvent op args s = .sendCommand op := by
  simp only [commandEvent, h, Bool.false_eq_true, if_false]

theorem commandEvent_of_sent {op : Byte} {args : List Byte} {s : State} (h : s.cmdSent = true) :
    commandEvent op args s = .sendArgs args := by
  simp only [commandEvent, h, if_true]

/-! ### What a step adds to the trace -/

/-- A step without an event: the trace and XFER_OPEN are as before, and so are the bus's answers where none is presented. -/
structure StepSilent (s t : State) : Prop where
  trace : t.trace = s.trace
  xferOpen : t.xferOpen = s.xferOpen
  bus : s.presented = none → t.bus = s.bus

/-- A step in which the bus accepts the presented event, which fits the bracket in a state that meets the invariant. -/
structure StepEmits (e : BusEvent) (s t : State) : Prop where
  presented : s.presented = some e
  trace : t.trace = s.trace ++ [e]
  fits : Inv s → bracketScan s.xferOpen [e] = some t.xferOpen

/-- A step without reset has no event, or the one it presents. -/
theorem StepShape.silent_or_emits {s t : State} (hs : StepShape s t) : StepSilent s t ∨ ∃ e, StepEmits e s t := by
  cases hs with
  | accepts hp hr m rest hm =>
    obtain ⟨htrace, hbus⟩ := handlerOf_keepsBus m.tag (latched m.tag m.arg m.tile { s with msgs := rest })
    exact .inl ⟨htrace, handlerOf_xferOpen _ _, fun _ => hbus⟩
  | holds e k ws he hb => exact .inl ⟨rfl, rfl, by simp [he]⟩
  | start hp hf ho hseen hb =>
    refine .inr ⟨.startTransfer, ?_, by simp, by simp [ho, bracketScan]⟩
    exact (presented_of_fetch hp hf).trans (if_pos (startCheck_eq_none.mpr ⟨ho, hseen⟩))
  | endx hp hf ho hb =>
    refine .inr ⟨.endTransfer, ?_, by simp, by simp [ho, bracketScan]⟩
    exact (presented_of_fetch hp hf).trans (if_pos (endxCheck_eq_none.mpr ho))
  | cmd hp o hf ho hb =>
    refine .inr ⟨.sendCommand o, ?_, by simp, by simp [ho, bracketScan]⟩
    exact (presented_of_fetch hp hf).trans (if_pos (insideCheck_eq_none.mpr ho))
  | cmdaCommand hp o args hf ha ho hb hc =>
    refine .inr ⟨.sendCommand o, ?_, by simp, by simp [ho, bracketScan]⟩
    rw [presented_of_fetch hp hf, instrEvent, if_pos (cmdaCheck_eq_none.mpr ⟨ha, ho⟩), commandEvent_of_unsent hc]
  | cmdaArgs hp o args hf ha ho hb hc =>
    refine .inr ⟨.sendArgs args, ?_, by simp, by simp [ho, bracketScan]⟩
    rw [presented_of_fetch hp hf, instrEvent, if_pos (cmdaCheck_eq_none.mpr ⟨ha, ho⟩), commandEvent_of_sent hc]
  | dly hp d hf ho hb =>
    refine .inr ⟨.delay d, ?_, by simp, by simp [ho, bracketScan]⟩
    exact (presented_of_fetch hp hf).trans (if_pos (insideCheck_eq_none.mpr ho))
  | opensWindow hp ho hb =>
    exact .inr ⟨.startTransfer, presented_of_closedWindow hp ho, by simp, by simp [ho, bracketScan]⟩
  | windowCmd hp ho w ws hw ha hb =>
    refine .inr ⟨.sendCommand w.op, ?_, by simp, by simp [ho, bracketScan]⟩
    rw [presented_of_burst hp ho hw, windowEvent_of_no_args ha]
  | windowCommand hp ho w ws hw ha hb hc =>
    refine .inr ⟨.sendCommand w.op, ?_, by simp, by simp [ho, bracketScan]⟩
    rw [presented_of_burst hp ho hw, windowEvent_of_args ha, commandEvent_of_unsent hc]
  | windowArgs hp ho w ws hw ha hb hc =>
    refine .inr ⟨.sendArgs w.args, ?_, by simp, by simp [ho, bracketScan]⟩
    rw [presented_of_burst hp ho hw, windowEvent_of_args ha, commandEvent_of_sent hc]
  | block hp hd hb =>
    refine .inr ⟨.sendData s.scratch, by simp [State.presented, hp, hd], by simp, fun hinv => ?_⟩
    simp [hinv.openBusy (.inr (.inl hp)), bracketScan]
  | drawEnds hp hb =>
    refine .inr ⟨.endTransfer, by simp [State.presented, hp], by simp, fun hinv => ?_⟩
    simp [hinv.openBusy (.inr (.inr hp)), bracketScan]
  | _ => exact .inl ⟨by simp, by simp, by simp⟩

/-- Settles O38: the event of a step fits the bracket that is open exactly while XFER_OPEN is 1; a reset starts an empty
trace with XFER_OPEN 0. -/
theorem everyStepKeepsTheBracketDiscipline : Obligations.EveryStepKeepsTheBracketDiscipline := by
  refine ⟨rfl, fun s t hinv hscan hstep => ?_⟩
  cases hr : s.rst with
  | some c =>
    rw [step_rst hr] at hstep
    cases hstep
    rfl
  | none =>
    rcases (step_shape hr hstep).silent_or_emits with h | ⟨e, h⟩
    · rw [h.trace, h.xferOpen, hscan]
    · rw [h.trace, bracketScan_append, hscan]
      exact h.fits hinv

end Sys2Proof.Machine
end

section
/-!
PROOF. The handshake with the bus (41_bus_serializer.md R141), and the part of the block that each event comes from (R144).
-/
namespace Sys2Proof.Machine

/-! ### The handshake -/

/-- `run` is the handshake of the event `e`, and the block goes on without the bus (R141). -/
def Handshake (e : BusEvent) (s : State) (run : Out) : Prop := ∃ go, KeepsBus go ∧ run = present e s go

/-- A bus that takes the event has it once, and the block goes on. -/
theorem Handshake.taken {e : BusEvent} {s : State} {run : Out} (h : Handshake e s run) (hb : s.busTakes = true) :
    ∃ t, run = .next t ∧ t.trace = s.trace ++ [e] ∧ t.bus = s.bus.tail := by
  obtain ⟨go, hgo, rfl⟩ := h
  exact ⟨_, present_of_takes hb, hgo _⟩

theorem Handshake.held {e : BusEvent} {s : State} {run : Out} (h : Handshake e s run) {k : Nat} {ws : List BusReply}
    (hb : s.bus = .after (k + 1) :: ws) : run = .next { s with bus := .after k :: ws } := by
  obtain ⟨go, -, rfl⟩ := h
  exact present_of_holds hb

theorem Handshake.stuck {e : BusEvent} {s : State} {run : Out} (h : Handshake e s run) {ws : List BusReply}
    (hb : s.bus = .never :: ws) : run = .fault .busNeverAccepts := by
  obtain ⟨go, -, rfl⟩ := h
  exact present_of_never hb

/-- Each bus call of a command with arguments is a handshake (R104). -/
theorem handshake_presentCommandArgs (op : Byte) (args : List Byte) (s : State) {go : State → State} (hgo : KeepsBus go) :
    Handshake (commandEvent op args s) s (presentCommandArgs op args s go) := by
  refine ⟨_, fun t => ?_, rfl⟩
  split
  · exact hgo t.argsSent
  · exact ⟨rfl, rfl⟩

/-- The event of an instruction goes through the handshake. -/
theorem handshake_exec {i : Instr} {s : State} {e : BusEvent} (h : instrEvent i s = some e) : Handshake e s (exec i s) := by
  cases i with
  | start =>
    obtain ⟨hc, ⟨⟩⟩ := Option.ite_none_right_eq_some.mp h
    exact ⟨_, fun t => by simp, exec_start_of_check hc⟩
  | endx =>
    obtain ⟨hc, ⟨⟩⟩ := Option.ite_none_right_eq_some.mp h
    exact ⟨_, fun t => by simp, exec_endx_of_check hc⟩
  | cmd op =>
    obtain ⟨hc, ⟨⟩⟩ := Option.ite_none_right_eq_some.mp h
    exact ⟨_, fun t => by simp, exec_cmd_of_check hc⟩
  | cmda op args =>
    obtain ⟨hc, ⟨⟩⟩ := Option.ite_none_right_eq_some.mp h
    rw [exec, execCmda, hc, checked_none]
    exact handshake_presentCommandArgs op args s fun t => by simp
  | dly d =>
    obtain ⟨hc, ⟨⟩⟩ := Option.ite_none_right_eq_some.mp h
    exact ⟨_, fun t => by simp, exec_dly_of_check hc⟩
  | _ => cases h

/-- So does each event of the window burst (R163). -/
theorem handshake_runWindowCommand (w : WindowCommand) (s : State) {go : State → State} (hgo : KeepsBus go) :
    Handshake (windowEvent w s) s (runWindowCommand w s go) := by
  unfold windowEvent runWindowCommand
  split
  · exact ⟨go, hgo, rfl⟩
  · exact handshake_presentCommandArgs w.op _ s hgo

/-- The event of a step goes through the handshake. -/
theorem handshake_step {s : State} {e : BusEvent} (hr : s.rst = none) (h : s.presented = some e) :
    Handshake e s (step s) := by
  cases hp : s.phase with
  | seq =>
    cases hf : fetchInstr s.cfg s.fetchAddr with
    | none => simp [State.presented, hp, hf] at h
    | some i =>
      rw [presented_of_fetch hp hf] at h
      rw [step_of_fetch hr hp hf]
      exact handshake_exec h
  | drawWin =>
    have hstep : step s = stepDrawWin s := by simp only [step, hr, hp]
    cases ho : s.xferOpen with
    | false =>
      cases (presented_of_closedWindow hp ho).symm.trans h
      exact ⟨State.openWindow, fun t => by simp, hstep.trans (if_neg (by simp [ho]))⟩
    | true =>
      cases hw : s.burst with
      | nil => simp [State.presented, hp, ho, hw] at h
      | cons w ws =>
        cases (presented_of_burst hp ho hw).symm.trans h
        rw [hstep, stepDrawWin, if_pos ho, hw]
        exact handshake_runWindowCommand w s fun t => by simp
  | drawData =>
    have hstep : step s = stepDrawData s := by simp only [step, hr, hp]
    simp only [State.presented, hp] at h
    obtain ⟨hd, ⟨⟩⟩ := Option.ite_none_right_eq_some.mp h
    exact ⟨State.blockSent, fun t => by simp, hstep.trans (if_pos hd)⟩
  | drawEnd =>
    simp only [State.presented, hp] at h
    cases h
    exact ⟨fun t => t.closeXfer.finish true, fun t => by simp, by simp only [step, hr, hp, stepDrawEnd]⟩
  | idle | wait | faulted => simp [State.presented, hp] at h

/-! ### Where no event is presented -/

theorem onAccept_keepsBus {tag arg : Byte} {tile : Tile} {f : State → State} {s t : State} (hf : KeepsBus f)
    (h : onAccept tag arg tile f s = .next t) : t.trace = s.trace ∧ t.bus = s.bus := by
  cases hc : s.canAccept with
  | true =>
    rw [onAccept_of_ready hc] at h
    cases h
    exact hf (latched tag arg tile s)
  | false =>
    rw [onAccept_of_busy hc] at h
    cases h
    exact ⟨rfl, rfl⟩

/-- Of the ROM instructions whose checks pass, END alone presents no event. -/
theorem eq_endSeq_of_no_event {i : Instr} {s : State} (hrom : i.inRom = true) (hc : romCheck i s = none)
    (h : instrEvent i s = none) : i = .endSeq := by
  cases i with
  | endSeq => rfl
  | reserved _ => cases hc
  | start | endx | cmd _ | cmda _ _ | dly _ => cases (if_pos hc).symm.trans h
  | _ => cases hrom

theorem rom_without_event {i : Instr} {s t : State} (hrom : i.inRom = true) (h : instrEvent i s = none)
    (hexec : exec i s = .next t) : t.trace = s.trace ∧ t.bus = s.bus := by
  cases hc : romCheck i s with
  | some cause =>
    rw [exec_of_check_fails hrom hc] at hexec
    cases hexec
    exact ⟨rfl, rfl⟩
  | none =>
    obtain rfl := eq_endSeq_of_no_event hrom hc h
    rw [exec_endSeq_of_check hc] at hexec
    cases hexec
    rcases seqDone_cases s with ⟨b, q, -, he⟩ | ⟨-, he⟩ <;> rw [he] <;> exact ⟨rfl, rfl⟩

/-- An instruction that presents no event leaves the trace and the bus alone. -/
theorem exec_without_event {i : Instr} {s t : State} (h : instrEvent i s = none) (hexec : exec i s = .next t) :
    t.trace = s.trace ∧ t.bus = s.bus := by
  cases i with
  | setup arg tile => exact onAccept_keepsBus (handlerOf_keepsBus 9) hexec
  | init arg tile => exact onAccept_keepsBus (handlerOf_keepsBus 10) hexec
  | powersave arg tile => exact onAccept_keepsBus (handlerOf_keepsBus 11) hexec
  | flip arg tile => exact onAccept_keepsBus (handlerOf_keepsBus 13) hexec
  | draw arg tile => exact onAccept_keepsBus (handlerOf_keepsBus 15) hexec
  | refresh arg tile => exact onAccept_keepsBus (handlerOf_keepsBus 16) hexec
  | unknownTag tag arg tile => exact onAccept_keepsBus (f := State.finish false) (fun _ => ⟨rfl, rfl⟩) hexec
  | _ => exact rom_without_event rfl h hexec

/-- Settles O39: the event of a step, and that of an instruction, goes through the handshake of R141. -/
theorem busHoldsEachEventUntilItIsAccepted : Obligations.BusHoldsEachEventUntilItIsAccepted := by
  refine ⟨fun s hr => ⟨fun e he => ?_, fun t he hstep => ?_⟩,
    fun i s => ⟨fun e he => ?_, fun t he => exec_without_event he⟩⟩
  · have h := handshake_step hr he
    exact ⟨fun _ => h.stuck, fun _ _ hb => ⟨h.held hb, he⟩, h.taken⟩
  · rcases (step_shape hr hstep).silent_or_emits with h | ⟨e, h⟩
    · exact ⟨h.trace, h.bus he⟩
    · cases h.presented.symm.trans he
  · have h := handshake_exec he
    exact ⟨fun _ => h.stuck, fun _ _ hb => ⟨h.held hb, he⟩, h.taken⟩

/-! ### The part of the block that an event comes from -/

/-- A step that adds one event to the trace, with what is known of the event. -/
theorem adds_event {P : BusEvent → Prop} {s t : State} {e : BusEvent} (htrace : t.trace = s.trace ++ [e]) (he : P e) :
    ∃ es, t.trace = s.trace ++ es ∧ es.length ≤ 1 ∧ ∀ e ∈ es, P e :=
  ⟨[e], htrace, Nat.le_refl 1, List.forall_mem_singleton.mpr he⟩

theorem adds_no_event {P : BusEvent → Prop} {s t : State} (htrace : t.trace = s.trace) :
    ∃ es, t.trace = s.trace ++ es ∧ es.length ≤ 1 ∧ ∀ e ∈ es, P e :=
  ⟨[], by simp [htrace], Nat.zero_le 1, by simp⟩

/-- Settles O40: each event with the case of a step that emits it. -/
theorem everyEventComesFromItsPart : Obligations.EveryEventComesFromItsPart := by
  intro s t hr hstep
  cases step_shape hr hstep with
  | accepts hp hready m rest hm => exact adds_no_event (handlerOf_keepsBus m.tag _).1
  | start hp hf => exact adds_event (e := .startTransfer) (by simp) (Or.inl ⟨hp, hf⟩)
  | opensWindow hp ho => exact adds_event (e := .startTransfer) (by simp) (Or.inr ⟨hp, ho⟩)
  | endx hp hf => exact adds_event (e := .endTransfer) (by simp) (Or.inl ⟨hp, hf⟩)
  | drawEnds hp => exact adds_event (e := .endTransfer) (by simp) (Or.inr hp)
  | cmd hp o hf => exact adds_event (e := .sendCommand o) (by simp) (Or.inl ⟨hp, .inl hf⟩)
  | cmdaCommand hp o args hf ha ho hb hc =>
    exact adds_event (e := .sendCommand o) (by simp) (Or.inl ⟨hp, .inr ⟨hc, args, ha, hf⟩⟩)
  | windowCmd hp ho w ws hw ha =>
    exact adds_event (e := .sendCommand w.op) (by simp) (Or.inr ⟨hp, w, ws, hw, rfl, .inl ha⟩)
  | windowCommand hp ho w ws hw ha hb hc =>
    exact adds_event (e := .sendCommand w.op) (by simp) (Or.inr ⟨hp, w, ws, hw, rfl, .inr hc⟩)
  | cmdaArgs hp o args hf ha ho hb hc =>
    exact adds_event (e := .sendArgs args) (by simp) ⟨hc, ha, .inl ⟨hp, o, hf⟩⟩
  | windowArgs hp ho w ws hw ha hb hc =>
    exact adds_event (e := .sendArgs w.args) (by simp) ⟨hc, ha, .inr ⟨hp, w, ws, hw, rfl⟩⟩
  | block hp hd => exact adds_event (e := .sendData s.scratch) (by simp) ⟨hp, hd, rfl⟩
  | dly hp d hf => exact adds_event (e := .delay d) (by simp) ⟨hp, hf⟩
  | _ => exact adds_no_event (by simp)

end Sys2Proof.Machine
end

section
/-!
PROOF. How many brackets each message has in its trace (41_bus_serializer.md R146): a stored sequence and a drawn tile are
one bracket each, and `op` puts them one after the other.
-/
namespace Sys2Proof.Machine

/-! ### Traces made of complete brackets -/

/-- A trace of `n` complete brackets, one after the other. -/
structure Brackets (n : Nat) (es : List BusEvent) : Prop where
  complete : bracketScan false es = some false
  count : es.count .startTransfer = n

/-- An event that neither opens nor closes a bracket. -/
def BusEvent.inside : BusEvent → Bool
  | .startTransfer => false
  | .endTransfer => false
  | _ => true

theorem Brackets.nil : Brackets 0 [] := ⟨rfl, rfl⟩

theorem Brackets.append {m n : Nat} {es fs : List BusEvent} (h : Brackets m es) (h' : Brackets n fs) :
    Brackets (m + n) (es ++ fs) where
  complete := by rw [bracketScan_append, h.complete]; exact h'.complete
  count := by rw [List.count_append, h.count, h'.count]

/-- A complete trace begins with a StartTransfer, if it has an event. -/
theorem Brackets.eq_nil {es : List BusEvent} (h : Brackets 0 es) : es = [] := by
  obtain ⟨hscan, hcount⟩ := h
  cases es with
  | nil => rfl
  | cons e es =>
    cases e with
    | startTransfer => simp at hcount
    | _ => cases hscan

theorem bracketScan_inside {es : List BusEvent} (h : ∀ e ∈ es, e.inside = true) : bracketScan true es = some true := by
  induction es with
  | nil => rfl
  | cons e es ih =>
    obtain ⟨he, hes⟩ := List.forall_mem_cons.mp h
    cases e with
    | startTransfer | endTransfer => cases he
    | _ => exact ih hes

/-- StartTransfer, events inside the bracket, EndTransfer. -/
theorem Brackets.one {es : List BusEvent} (h : ∀ e ∈ es, e.inside = true) :
    Brackets 1 (.startTransfer :: (es ++ [.endTransfer])) where
  complete := by
    have hscan : bracketScan true (es ++ [.endTransfer]) = some false := by
      rw [bracketScan_append, bracketScan_inside h]; rfl
    exact hscan
  count := by
    have hnone : es.count .startTransfer = 0 := List.count_eq_zero.mpr fun hmem => by cases h _ hmem
    simp [hnone]

/-! ### The traces of the message level -/

theorem listEvents_inside {is : List Instr} : ∀ e ∈ listEvents is, e.inside = true := by
  induction is with
  | nil => simp [listEvents]
  | cons i is ih =>
    rw [listEvents, List.forall_mem_append]
    refine ⟨?_, ih⟩
    cases i <;> simp [bodyEvents, BusEvent.inside]

theorem brackets_sequenceTrace {c : Config} {base : Half} (h : wfSequence c base = true) :
    Brackets 1 (sequenceTrace c base) := by
  obtain ⟨is, hdec, -⟩ := decodes_of_wfSequence h
  rw [sequenceTrace, hdec]
  exact .one listEvents_inside

theorem windowEvents_inside (c : Config) (x y : Byte) : ∀ e ∈ windowEvents c x y, e.inside = true := by
  simp [windowEvents, BusEvent.inside]

theorem dataEvents_inside (pix : Mem) (addr n : Nat) : ∀ e ∈ dataEvents pix addr n, e.inside = true := by
  induction n generalizing addr with
  | zero => simp [dataEvents]
  | succ n ih => exact List.forall_mem_cons.mpr ⟨rfl, ih (addr + 8)⟩

theorem brackets_drawTrace (c : Config) (pix : Mem) (tile : Tile) : Brackets 1 (drawTrace c pix tile) :=
  .one (List.forall_mem_append.mpr ⟨windowEvents_inside c tile.x tile.y, dataEvents_inside pix _ _⟩)

/-- The premises of R10 on the stored sequences, each under the name that a message runs it by. -/
theorem wfSequences_of_allSequencesWf {c : Config} (h : allSequencesWf c = true) :
    wfSequence c c.baseInit = true ∧ wfSequence c c.baseActive = true ∧ wfSequence c c.baseSleep = true ∧
      wfSequence c c.baseRefresh = true := by
  simp only [allSequencesWf, Bool.and_eq_true] at h
  obtain ⟨⟨⟨⟨⟨hinitFull, hinitPartial⟩, hactive⟩, hsleep⟩, hrefreshFull⟩, hrefreshPartial⟩ := h
  refine ⟨?_, hactive, hsleep, ?_⟩
  · unfold Config.baseInit; split <;> assumption
  · unfold Config.baseRefresh; split <;> assumption

/-! ### The messages -/

/-- The number of brackets of a message, by the instruction it stands for and PSTATE (R146). -/
def bracketsOf (p : PState) : Instr → Nat
  | .init _ _ => 2
  | .powersave _ _ => 1
  | .refresh _ _ => 1
  | .draw _ _ => if p = .deepSleep ∨ p = .uninit then 0 else 1
  | _ => 0

theorem brackets_op {c : Config} (h : allSequencesWf c = true) (pix : Mem) (p : PState) (v : Bool) (m : Message) :
    Brackets (bracketsOf p (decodeMsg m)) (op c pix p v m).trace := by
  obtain ⟨hinit, hactive, hsleep, hrefresh⟩ := wfSequences_of_allSequencesWf h
  unfold op
  cases decodeMsg m with
  | init arg tile => exact (brackets_sequenceTrace hinit).append (brackets_sequenceTrace hactive)
  | powersave arg tile =>
    dsimp only
    split
    · exact brackets_sequenceTrace hactive
    · exact brackets_sequenceTrace hsleep
  | draw arg tile =>
    dsimp only [bracketsOf]
    split
    · exact .nil
    · exact brackets_drawTrace c pix tile
  | refresh arg tile => exact brackets_sequenceTrace hrefresh
  | _ => exact .nil

theorem decodeMsg_unknown {m : Message} (h : recognisedTag m.tag = false) :
    decodeMsg m = .unknownTag m.tag m.arg m.tile := by
  simp only [recognisedTag, Bool.or_eq_false_iff, beq_eq_false_iff_ne] at h
  obtain ⟨⟨⟨⟨⟨h9, h10⟩, h11⟩, h13⟩, h15⟩, h16⟩ := h
  rw [decodeMsg, if_neg h9, if_neg h10, if_neg h11, if_neg h13, if_neg h15, if_neg h16]

/-- Settles O51: the trace has the number of brackets of R146, and with none it has no event. -/
theorem eachMessageEmitsItsNumberOfBrackets : Obligations.EachMessageEmitsItsNumberOfBrackets := by
  intro c pix p v tag arg tile hwf tr
  have hb : Brackets (bracketsOf p (decodeMsg ⟨tag, arg, tile⟩)) tr := brackets_op hwf pix p v ⟨tag, arg, tile⟩
  have hnil : bracketsOf p (decodeMsg ⟨tag, arg, tile⟩) = 0 → tr = [] := fun hzero => (hzero ▸ hb).eq_nil
  refine ⟨hb.complete, fun htag => ?_, fun htag => ?_, fun htag hp => ?_, fun htag hp => hnil ?_, fun htag => hnil ?_⟩
  · subst htag; exact hb.count
  · rcases htag with rfl | rfl <;> exact hb.count
  · subst htag; rcases hp with rfl | rfl <;> exact hb.count
  · subst htag; rcases hp with rfl | rfl <;> rfl
  · rcases htag with rfl | rfl | htag
    · rfl
    · rfl
    · exact congrArg (bracketsOf p) (decodeMsg_unknown htag)

end Sys2Proof.Machine
end

section
/-!
PROOF. The window address calculator (42_window_address.md R160 to R162): the value of each window register as a number,
and where its reduction does nothing.
-/
namespace Sys2Proof.Machine

/-! ### The three registers as numbers -/

theorem toNat_windowRow (c : Config) (y : Byte) :
    ((windowRow c y).toNat : Int) = ((c.tileH.toNat : Int) - 1 - (y.toNat : Int)) % 256 := by
  rw [windowRow, BitVec.toNat_ofInt]
  exact Int.toNat_of_nonneg (Int.emod_nonneg _ (by decide))

/-- Inside the panel the difference is a byte already, so R160 does not reduce it. -/
theorem toNat_windowRow_of_lt {c : Config} {y : Byte} (h : y.toNat < c.tileH.toNat) :
    (windowRow c y).toNat = c.tileH.toNat - 1 - y.toNat := by
  have hrow := toNat_windowRow c y
  have hbyte := c.tileH.isLt
  omega

theorem windowRow_last {c : Config} {y : Byte} (h : y.toNat + 1 = c.tileH.toNat) : windowRow c y = 0 := by
  have hrow := toNat_windowRow_of_lt (c := c) (y := y) (by omega)
  exact BitVec.eq_of_toNat_eq (hrow.trans (show _ = 0 by omega))

/-- The largest column of R161. -/
theorem columnSum_le (x o : Byte) : x.toNat * 8 + o.toNat ≤ 2295 := by
  have hx := x.isLt
  have ho := o.isLt
  omega

/-- The sum of R161 is below 2^16 for every pair of bytes. -/
theorem toNat_windowCol (c : Config) (x : Byte) : (windowCol c x).toNat = x.toNat * 8 + c.xOffset.toNat := by
  have hfits : x.toNat * 8 + c.xOffset.toNat < 2 ^ 16 := (columnSum_le x c.xOffset).trans_lt (by decide)
  rw [windowCol, BitVec.toNat_ofNat, Nat.mod_eq_of_lt hfits]

/-- Under the premise of R10 on PIX_W the difference of R162 is not negative, so it is not reduced. -/
theorem toNat_windowColEnd {c : Config} (h : 1 ≤ c.pixW.toNat) : (windowColEnd c).toNat = c.pixW.toNat - 1 := by
  have hhalf := c.pixW.isLt
  rw [windowColEnd, BitVec.toNat_ofInt]
  omega

/-! ### What the calculator writes -/

/-- Settles O30: ROW from `toNat_windowRow`, inside the panel without its reduction. -/
theorem windowRowInvertsTheTileRow : Obligations.WindowRowInvertsTheTileRow := by
  intro s
  refine ⟨toNat_windowRow s.cfg s.tY, fun hin => ?_, windowRow_last, fun hheight hy => ?_, fun hheight hy => ?_⟩
  · have hrow : s.computeWindow.row.toNat = s.cfg.tileH.toNat - 1 - s.tY.toNat := toNat_windowRow_of_lt hin
    exact ⟨hrow, by omega⟩
  · rw [State.computeWindow_row, windowRow, hheight, hy]; decide
  · rw [State.computeWindow_row, windowRow, hheight, hy]; decide

/-- Settles O31: COL and COL_END as numbers; the calculator is one update of the three window registers. -/
theorem windowColumnsAreExact : Obligations.WindowColumnsAreExact := by
  intro s
  have hcol : s.computeWindow.col.toNat = s.tX.toNat * 8 + s.cfg.xOffset.toNat := toNat_windowCol s.cfg s.tX
  refine ⟨hcol, hcol.trans_le (columnSum_le s.tX s.cfg.xOffset), fun hx hoff => ?_, fun hw => ?_, fun hw => ?_, rfl⟩
  · rw [State.computeWindow_col, windowCol, hx, hoff]; decide
  · have hend : s.computeWindow.colEnd.toNat = s.cfg.pixW.toNat - 1 := toNat_windowColEnd hw
    have hhalf := s.cfg.pixW.isLt
    exact ⟨hend, by omega⟩
  · rw [State.computeWindow_colEnd, windowColEnd, hw]; decide

end Sys2Proof.Machine
end

section
/-!
PROOF. The pixel-polarity converter (43_tile_converter.md R180 to R182), and the two steps that convert one block into
SCRATCH and send it (R181).
-/
namespace Sys2Proof.Machine

/-! ### The transform -/

theorem bytes_convert (b : Block) : (convert b).bytes = b.bytes.map (fun v => ~~~v) := rfl

@[simp] theorem convert_convert (b : Block) : convert (convert b) = b := by
  simp only [convert, BitVec.not_not]

/-- Settles O32: on a byte the XOR with 0xFF is the complement, and a byte complemented twice is itself. -/
theorem convertComplementsEachByte : Obligations.ConvertComplementsEachByte := by
  intro b
  have hxor : (fun v : Byte => v ^^^ 0xFF) = fun v => ~~~v := funext fun _ => BitVec.xor_allOnes
  exact ⟨by rw [hxor, bytes_convert], bytes_convert b, convert_convert b⟩

/-! ### The read of a block -/

/-- Below T_CNT the read of a block lies in the buffer, so 2^PA_WIDTH alone decides whether R53 admits it. -/
theorem pixAdmits_block {s : State} (hk : s.blkIdx.toNat < s.tCnt.toNat) :
    pixAdmits s (s.tPtr + 8 * s.blkIdx.toNat) 8 = decide (s.tPtr + 8 * s.blkIdx.toNat + 8 ≤ 2 ^ s.cfg.paWidth) := by
  have hstart : s.tPtr ≤ s.tPtr + 8 * s.blkIdx.toNat := Nat.le_add_right _ _
  have hend : s.tPtr + 8 * s.blkIdx.toNat + 8 ≤ s.tPtr + 8 * s.tCnt.toNat := by omega
  simp only [pixAdmits, hstart, hend, decide_true, Bool.true_and]

/-! ### The steps of DRAW_DATA -/

section
variable {s : State} (hr : s.rst = none) (hp : s.phase = .drawData)
include hr hp

theorem step_drawData : step s = stepDrawData s := by
  simp only [step, hr, hp]

theorem step_sends_block (hd : s.blockDue = true) (hb : s.busTakes = true) :
    step s = .next (eventTaken (.sendData s.scratch) s).blockSent := by
  rw [step_drawData hr hp, stepDrawData, if_pos hd, present_of_takes hb]

theorem step_converts_block (hd : s.blockDue = false) (hk : s.blkIdx.toNat < s.tCnt.toNat)
    (hfits : s.tPtr + 8 * s.blkIdx.toNat + 8 ≤ 2 ^ s.cfg.paWidth) :
    step s = .next (s.convertBlock (pixBlock s.pix (s.tPtr + 8 * s.blkIdx.toNat))) := by
  have hread : memReadPix s (s.tPtr + 8 * s.blkIdx.toNat) = some (pixBlock s.pix (s.tPtr + 8 * s.blkIdx.toNat)) :=
    memReadPix_eq_some.mpr ⟨(pixAdmits_block hk).trans (decide_eq_true hfits), rfl⟩
  rw [step_drawData hr hp, stepDrawData, if_neg (by simp [hd]), if_pos hk, hread]

theorem step_block_stuck (hd : s.blockDue = false) (hk : s.blkIdx.toNat < s.tCnt.toNat)
    (hbeyond : 2 ^ s.cfg.paWidth < s.tPtr + 8 * s.blkIdx.toNat + 8) :
    step s = .fault .pixReadNotAdmitted := by
  have hread : memReadPix s (s.tPtr + 8 * s.blkIdx.toNat) = none :=
    memReadPix_eq_none.mpr ((pixAdmits_block hk).trans (decide_eq_false (Nat.not_le.mpr hbeyond)))
  rw [step_drawData hr hp, stepDrawData, if_neg (by simp [hd]), if_pos hk, hread]

/-- The conversion leaves the bus's answers alone, so the bus that takes an event now takes the SendData one step later. -/
theorem steps_convert_and_send_block (hd : s.blockDue = false) (hk : s.blkIdx.toNat < s.tCnt.toNat)
    (hfits : s.tPtr + 8 * s.blkIdx.toNat + 8 ≤ 2 ^ s.cfg.paWidth) (hb : s.busTakes = true) :
    let sent := convert (pixBlock s.pix (s.tPtr + 8 * s.blkIdx.toNat))
    Steps 2 s { eventTaken (.sendData sent) s with scratch := sent, blkIdx := s.blkIdx + 1 } := by
  intro sent
  have hconvert := step_converts_block hr hp hd hk hfits
  have hsend := step_sends_block (s := s.convertBlock (pixBlock s.pix (s.tPtr + 8 * s.blkIdx.toNat))) hr hp rfl hb
  have hback : (eventTaken (.sendData sent) (s.convertBlock (pixBlock s.pix (s.tPtr + 8 * s.blkIdx.toNat)))).blockSent =
      { eventTaken (.sendData sent) s with scratch := sent, blkIdx := s.blkIdx + 1 } := by
    simp only [State.blockSent, State.convertBlock, eventTaken, hd, sent]
  exact hback ▸ .cons hconvert (.one hsend)

end

/-- Settles O33: a step by `blockDue` and by where the read ends, and the two steps of one block together. -/
theorem dataStepSendsOneConvertedBlock : Obligations.DataStepSendsOneConvertedBlock := by
  intro s hr hp a sent
  exact ⟨step_converts_block hr hp, step_block_stuck hr hp, step_sends_block hr hp, steps_convert_and_send_block hr hp⟩

end Sys2Proof.Machine
end

section
/-!
PROOF. The messages at the host port (44_operations.md R200 to R240): how a message ends, and the first step of each
one.
-/
namespace Sys2Proof.Machine

/-! ### The end of a message -/

theorem finish_eq_messageEnded (r : Bool) (s : State) :
    s.finish r = { messageEnded r s with pstate := s.finishPState r, ramValid := s.finishRamValid r } := rfl

theorem finishPState_eq (r : Bool) (s : State) :
    s.finishPState r = if r = true then s.pendPs.getD s.pstate else s.pstate := by
  cases r with
  | true => exact finishPState_true s
  | false => rfl

theorem finishRamValid_of_init {s : State} (htag : s.mTag = 10) : s.finishRamValid true = true :=
  if_pos ⟨rfl, htag⟩

theorem finishRamValid_of_sleep {s : State} (htag : s.mTag = 11) (harg : s.mArg ≠ 0) : s.finishRamValid true = false :=
  (if_neg (by simp [htag])).trans (if_pos ⟨rfl, htag, harg⟩)

/-- Every message but Init and a SetPowerSave to deep sleep keeps RAM_VALID (R36). -/
theorem finishRamValid_keep {s : State} (hinit : s.mTag ≠ 10) (hsleep : s.mTag = 11 → s.mArg = 0) (r : Bool) :
    s.finishRamValid r = s.ramValid :=
  (if_neg fun h => hinit h.2).trans (if_neg fun h => h.2.2 (hsleep h.2.1))

/-- Settles O10: RAM_VALID by the result and the latched message. -/
theorem finishTracksRamValid : Obligations.FinishTracksRamValid := by
  intro s r
  refine ⟨s.finishRamValid r, ?_, ?_, ?_, ?_, ?_, ?_⟩
  · rw [← finishPState_eq]; rfl
  · rintro rfl htag; exact finishRamValid_of_init htag
  · rintro rfl htag harg; exact finishRamValid_of_sleep htag harg
  · rintro - htag harg; exact finishRamValid_keep (by simp [htag]) (fun _ => harg) r
  · rintro - hinit hsleep; exact finishRamValid_keep hinit (absurd · hsleep) r
  · rintro rfl; exact finishRamValid_false s

/-- A message that begins no sequence ends with PSTATE and RAM_VALID as they are (R203). -/
theorem finish_of_keep {s : State} {r : Bool} (hpend : s.pendPs = none) (hram : s.finishRamValid r = s.ramValid) :
    s.finish r = messageEnded r s := by
  rw [finish_eq_messageEnded, finishPState_keep hpend, hram]
  rfl

theorem finish_false_latched (tag arg : Byte) (tile : Tile) (s : State) :
    (latched tag arg tile s).finish false = messageEnded false (latched tag arg tile s) :=
  finish_of_keep rfl (finishRamValid_false _)

theorem finish_true_latched {tag : Byte} (hinit : tag ≠ 10) (hsleep : tag ≠ 11) (arg : Byte) (tile : Tile) (s : State) :
    (latched tag arg tile s).finish true = messageEnded true (latched tag arg tile s) :=
  finish_of_keep rfl (finishRamValid_keep hinit (absurd · hsleep) true)

/-! ### The first step of a message -/

/-- A message instruction at the port runs the handler of its tag. -/
theorem exec_at_port {s : State} (hp : s.phase = .idle) (hr : s.ready = true) (m : Message) :
    exec (decodeMsg m) s = .next (handlerOf m.tag (latched m.tag m.arg m.tile s)) :=
  exec_decodeMsg (canAccept_iff.mpr ⟨hp, hr⟩)

/-- Settles O12: the handler of SETUP ends the message with success. -/
theorem setupAcknowledges : Obligations.SetupAcknowledges := by
  intro s arg tile hp hr
  rw [← finish_true_latched (by decide) (by decide)]
  exact exec_at_port hp hr ⟨9, arg, tile⟩

/-- Settles O13: so does the handler of FLIP. -/
theorem flipIsAnAcceptedNoOp : Obligations.FlipIsAnAcceptedNoOp := by
  intro s arg tile hp hr
  rw [← finish_true_latched (by decide) (by decide)]
  exact exec_at_port hp hr ⟨13, arg, tile⟩

/-- Settles O14: the handler of an unrecognised tag ends the message with failure. -/
theorem unknownTagFails : Obligations.UnknownTagFails := by
  intro s tag arg tile htag hp hr
  have hdec : decodeMsg ⟨tag, arg, tile⟩ = .unknownTag tag arg tile := decodeMsg_unknown htag
  refine ⟨?_, hdec⟩
  rw [← hdec, exec_at_port hp hr, handlerOf_unknown htag, finish_false_latched]

/-- Settles O15: the handler of INIT. -/
theorem initStartsTheInitImage : Obligations.InitStartsTheInitImage :=
  fun _ arg tile hp hr => exec_at_port hp hr ⟨10, arg, tile⟩

/-- Settles O16: the handler of POWERSAVE, by the latched argument. -/
theorem powersaveStartsTheSequenceOfItsArgument : Obligations.PowersaveStartsTheSequenceOfItsArgument := by
  intro s arg tile hp hr
  have hexec := exec_at_port hp hr ⟨11, arg, tile⟩
  exact ⟨fun harg => hexec.trans (congrArg _ (if_pos harg)), fun harg => hexec.trans (congrArg _ (if_neg harg))⟩

/-- Settles O17: the handler of REFRESH; the latching has cleared PEND_PS already. -/
theorem refreshStartsTheRefreshSequence : Obligations.RefreshStartsTheRefreshSequence :=
  fun _ arg tile hp hr => exec_at_port hp hr ⟨16, arg, tile⟩

/-- DrawTile's state check admits ACTIVE and PS_LIGHT (R220). -/
theorem drawTile_admitted {s : State} (hs : s.pstate ≠ .deepSleep) (hu : s.pstate ≠ .uninit) :
    s.drawTile = s.beginDraw :=
  if_neg (not_or.mpr ⟨hs, hu⟩)

theorem drawTile_refused {s : State} (h : s.pstate = .deepSleep ∨ s.pstate = .uninit) : s.drawTile = s.finish false :=
  if_pos h

/-- Settles O18: the state check of DRAW on the latched message. -/
theorem drawIsRefusedInDeepSleepAndUninit : Obligations.DrawIsRefusedInDeepSleepAndUninit := by
  intro s arg tile hp hr
  have hexec : exec (.draw arg tile) s = .next (latched 15 arg tile s).drawTile := exec_at_port hp hr ⟨15, arg, tile⟩
  refine ⟨fun h => ?_, fun h => ?_⟩
  · rw [hexec, drawTile_refused (s := latched 15 arg tile s) h, finish_false_latched]
  · have hs : s.pstate ≠ .deepSleep ∧ s.pstate ≠ .uninit := by rcases h with h | h <;> simp [h]
    rw [hexec, drawTile_admitted (s := latched 15 arg tile s) hs.1 hs.2]
    rfl

theorem exec_decodeMsg_busy {m : Message} {s : State} (h : s.canAccept = false) : exec (decodeMsg m) s = .next s := by
  obtain ⟨tag, arg, tile⟩ := m
  cases hrec : recognisedTag tag with
  | false => rw [decodeMsg_unknown hrec]; exact onAccept_of_busy h
  | true => rcases recognisedTag_iff.mp hrec with rfl | rfl | rfl | rfl | rfl | rfl <;> exact onAccept_of_busy h

/-- Settles O20: a message that the port does not accept waits. -/
theorem messageWaitsWhileTheBlockIsBusy : Obligations.MessageWaitsWhileTheBlockIsBusy :=
  fun _ _ h => exec_decodeMsg_busy (Bool.eq_false_iff.mpr (mt canAccept_iff.mp h))

/-- Settles O24: the step in IDLE takes the message off the port. -/
theorem stepRunsTheMessageOnThePort : Obligations.StepRunsTheMessageOnThePort := by
  intro s m rest hrst hp hr hm
  have hcan : s.canAccept = true := canAccept_iff.mpr ⟨hp, hr⟩
  exact ⟨by simp only [step, hrst, hp, stepIdle, hm, hcan, if_true], rfl⟩

/-! ### The host port and PSTATE between the messages' ends -/

@[simp] theorem burstGoesOn_msgs (ws : List WindowCommand) (s : State) : (s.burstGoesOn ws).msgs = s.msgs := by
  cases ws <;> rfl
@[simp] theorem burstGoesOn_rst (ws : List WindowCommand) (s : State) : (s.burstGoesOn ws).rst = s.rst := by
  cases ws <;> rfl
@[simp] theorem burstGoesOn_ready (ws : List WindowCommand) (s : State) : (s.burstGoesOn ws).ready = s.ready := by
  cases ws <;> rfl

/-- The messages of the host and the latch registers (R32) are as before. -/
def PortKept (s t : State) : Prop :=
  t.msgs = s.msgs ∧ t.mTag = s.mTag ∧ t.mArg = s.mArg ∧ t.tX = s.tX ∧ t.tY = s.tY ∧ t.tCnt = s.tCnt ∧ t.tPtr = s.tPtr

theorem portKept_burstGoesOn (ws : List WindowCommand) (s : State) : PortKept s (s.burstGoesOn ws) := by
  cases ws <;> exact ⟨rfl, rfl, rfl, rfl, rfl, rfl, rfl⟩

/-- Settles O21: where READY is 0 no message is accepted, and no other step writes the latch. -/
theorem busyStepsLeaveTheHostPortAlone : Obligations.BusyStepsLeaveTheHostPortAlone := by
  intro s t hrst hready hstep
  change PortKept s t
  cases step_shape hrst hstep with
  | accepts hp hr => simp [hready] at hr
  | windowCmd hp ho w ws => exact portKept_burstGoesOn ws (eventTaken (.sendCommand w.op) s)
  | windowArgs hp ho w ws => exact portKept_burstGoesOn ws (eventTaken (.sendArgs w.args) s).argsSent
  | _ => simp [PortKept]

/-- A step without reset keeps PSTATE, or it ends a message with success with PEND_PS as it was (R203). -/
theorem StepShape.pstate_cases {s t : State} (hs : StepShape s t) :
    t.pstate = s.pstate ∨ ∃ u, u.pendPs = s.pendPs ∧ u.pstate = s.pstate ∧ t = State.finish true u := by
  cases hs with
  | accepts hp hr m rest hm =>
    left
    rcases handlerOf_cases m.tag (latched m.tag m.arg m.tile { s with msgs := rest }) with
      ⟨he, -⟩ | ⟨he, -⟩ | ⟨b, q, p, he, -⟩ | ⟨he, -⟩ <;> rw [he]
    · exact finishPState_keep (s := latched m.tag m.arg m.tile { s with msgs := rest }) rfl true
    all_goals rfl
  | endFinishes => exact .inr ⟨s, rfl, rfl, rfl⟩
  | drawEnds => exact .inr ⟨(eventTaken .endTransfer s).closeXfer, rfl, rfl, rfl⟩
  | _ => left; simp

/-- Settles O42: the end of the message writes PEND_PS, where that is not KEEP. -/
theorem pStateChangesOnlyAtASuccessfulEnd : Obligations.PStateChangesOnlyAtASuccessfulEnd := by
  intro s t hrst hstep hne
  rcases (step_shape hrst hstep).pstate_cases with he | ⟨u, hpend, hstate, rfl⟩
  · exact absurd he hne
  · rcases finishPState_cases true u with he | ⟨-, he⟩
    · exact absurd (he.trans hstate) hne
    · exact ⟨hpend.symm.trans he, rfl, rfl, rfl⟩

end Sys2Proof.Machine
end

section
/-!
PROOF. DrawTile as a whole (44_operations.md R220 to R222): one step accepts the message, then come StartTransfer, the
window burst, the data phase and EndTransfer, each event when the bus accepts it.

`State.sent` says what accepted events leave behind; the parts of the run add up by `sent_sent`.
-/
namespace Sys2Proof.Machine

/-! ### Accepted events -/

/-- `s` after the bus has accepted the events `es`, one after the other. -/
def State.sent (es : List BusEvent) (s : State) : State :=
  { s with trace := s.trace ++ es, bus := s.bus.drop es.length }

theorem sent_nil (s : State) : s.sent [] = s := by
  simp [State.sent]

theorem sent_singleton (e : BusEvent) (s : State) : s.sent [e] = eventTaken e s := by
  simp [State.sent, eventTaken]

theorem sent_sent (es fs : List BusEvent) (s : State) : (s.sent es).sent fs = s.sent (es ++ fs) := by
  simp [State.sent]

theorem busAnswers_drop {s t : State} {n : Nat} (hbus : t.bus = s.bus.drop n) (ha : s.busAnswers = true) :
    t.busAnswers = true := by
  unfold State.busAnswers at *
  rw [hbus]
  exact List.all_eq_true.mpr fun r hr => List.all_eq_true.mp ha r (List.mem_of_mem_drop hr)

/-- An event that a step presents is accepted in the end (R141). -/
theorem Reaches.of_presents {e : BusEvent} {s : State} {go : State → State} (ha : s.busAnswers = true)
    (h : ∀ b, step { s with bus := b } = present e { s with bus := b } go) : Reaches s (go (s.sent [e])) := by
  obtain ⟨n, -, hn⟩ := present_delivers ha h
  exact ⟨n, by rwa [sent_singleton]⟩

/-! ### The window burst -/

/-- The block between two events of its drawing, with no command half sent, on a bus that answers. -/
structure Drawing (p : Phase) (s : State) : Prop where
  notReset : s.rst = none
  inPhase : s.phase = p
  noneUnderWay : s.cmdSent = false
  noBlockDue : s.blockDue = false
  answers : s.busAnswers = true

theorem Drawing.sent {p : Phase} {s : State} (h : Drawing p s) (es : List BusEvent) : Drawing p (s.sent es) :=
  { h with answers := busAnswers_drop rfl h.answers }

theorem step_drawWin_closed {s : State} (hr : s.rst = none) (hp : s.phase = .drawWin) (ho : s.xferOpen = false) :
    step s = present .startTransfer s State.openWindow := by
  simp only [step, hr, hp, stepDrawWin, ho, Bool.false_eq_true, if_false]

theorem step_drawWin_burst {s : State} {w : WindowCommand} {ws : List WindowCommand} (hr : s.rst = none)
    (hp : s.phase = .drawWin) (ho : s.xferOpen = true) (hw : s.burst = w :: ws) :
    step s = runWindowCommand w s (State.burstGoesOn ws) := by
  simp only [step, hr, hp, stepDrawWin, ho, hw, if_true]

theorem runWindowCommand_no_args {w : WindowCommand} (h : w.args = []) (s : State) (go : State → State) :
    runWindowCommand w s go = present (.sendCommand w.op) s go := by
  simp only [runWindowCommand, h]

theorem runWindowCommand_command {w : WindowCommand} (h : w.args ≠ []) {s : State} (hc : s.cmdSent = false)
    (go : State → State) : runWindowCommand w s go = present (.sendCommand w.op) s State.commandSent := by
  obtain ⟨a, as, ha⟩ := List.exists_cons_of_ne_nil h
  simp only [runWindowCommand, ha, presentCommandArgs, commandEvent, hc, Bool.false_eq_true, if_false]

theorem runWindowCommand_args {w : WindowCommand} (h : w.args ≠ []) {s : State} (hc : s.cmdSent = true)
    (go : State → State) : runWindowCommand w s go = present (.sendArgs w.args) s fun t => go t.argsSent := by
  obtain ⟨a, as, ha⟩ := List.exists_cons_of_ne_nil h
  simp only [runWindowCommand, ha, presentCommandArgs, commandEvent, hc, if_true]

theorem events_no_args {w : WindowCommand} (h : w.args = []) : w.events = [.sendCommand w.op] := by
  simp only [WindowCommand.events, h]

theorem events_args {w : WindowCommand} (h : w.args ≠ []) : w.events = [.sendCommand w.op, .sendArgs w.args] := by
  obtain ⟨a, as, ha⟩ := List.exists_cons_of_ne_nil h
  simp only [WindowCommand.events, ha]

/-- The event that a command of the burst presents is accepted in the end. -/
theorem Drawing.burst_delivers {s : State} {w : WindowCommand} {ws : List WindowCommand} {e : BusEvent}
    {go : State → State} (hs : Drawing .drawWin s) (ho : s.xferOpen = true) (hw : s.burst = w :: ws)
    (h : ∀ b, runWindowCommand w { s with bus := b } (State.burstGoesOn ws) = present e { s with bus := b } go) :
    Reaches s (go (s.sent [e])) :=
  .of_presents hs.answers fun b =>
    (step_drawWin_burst (s := { s with bus := b }) hs.notReset hs.inPhase ho hw).trans (h b)

/-- The SendArgs of a command follows on its SendCommand (R104). -/
theorem window_args_run {s : State} {w : WindowCommand} {ws : List WindowCommand} (hs : Drawing .drawWin s)
    (ho : s.xferOpen = true) (hw : s.burst = w :: ws) (hargs : w.args ≠ []) :
    Reaches s.commandSent (State.burstGoesOn ws (s.sent [.sendArgs w.args])) := by
  obtain ⟨hr, hp, hc, -, ha⟩ := hs
  have hstep : ∀ b, step { s.commandSent with bus := b } =
      present (.sendArgs w.args) { s.commandSent with bus := b } fun t => t.argsSent.burstGoesOn ws := fun b =>
    (step_drawWin_burst (s := { s.commandSent with bus := b }) hr hp ho hw).trans (runWindowCommand_args hargs rfl _)
  have hback : (s.commandSent.sent [.sendArgs w.args]).argsSent = s.sent [.sendArgs w.args] := by
    simp only [State.sent, State.commandSent, State.argsSent, hc]
  exact hback ▸ Reaches.of_presents (s := s.commandSent) ha hstep

/-- One command of the burst has its bus calls accepted, one or two (R163). -/
theorem window_command_runs {s : State} {w : WindowCommand} {ws : List WindowCommand} (hs : Drawing .drawWin s)
    (ho : s.xferOpen = true) (hw : s.burst = w :: ws) : Reaches s ((s.sent w.events).burstGoesOn ws) := by
  by_cases hargs : w.args = []
  · rw [events_no_args hargs]
    exact hs.burst_delivers ho hw fun _ => runWindowCommand_no_args hargs _ _
  · have hcommand : Reaches s (s.sent [.sendCommand w.op]).commandSent :=
      hs.burst_delivers ho hw fun b => runWindowCommand_command (s := { s with bus := b }) hargs hs.noneUnderWay _
    rw [events_args hargs, ← List.singleton_append, ← sent_sent]
    exact hcommand.trans (window_args_run (hs.sent _) ho hw hargs)

/-- The commands of the burst run one after the other, and the data phase begins. -/
theorem burst_runs {s : State} {w : WindowCommand} {ws : List WindowCommand} (hs : Drawing .drawWin s)
    (ho : s.xferOpen = true) (hw : s.burst = w :: ws) :
    Reaches s (State.beginData { s.sent ((w :: ws).flatMap WindowCommand.events) with burst := [] }) := by
  induction ws generalizing w s with
  | nil =>
    rw [List.flatMap_singleton]
    exact window_command_runs hs ho hw
  | cons w' ws ih =>
    have hnext : Drawing .drawWin { s.sent w.events with burst := w' :: ws } := { hs.sent w.events with }
    have hrest := ih hnext ho rfl
    rw [List.flatMap_cons, ← sent_sent]
    exact (window_command_runs hs ho hw).trans hrest

/-- `s` with StartTransfer and the window burst accepted, and the data phase begun. -/
def State.windowSent (s : State) : State :=
  { (s.sent [.startTransfer]).sent (windowEvents s.cfg s.tX s.tY) with
    phase := .drawData
    xferOpen := true
    row := windowRow s.cfg s.tY
    col := windowCol s.cfg s.tX
    colEnd := windowColEnd s.cfg
    blkIdx := 0
    burst := [] }

/-- DRAW_WIN: StartTransfer and the nine events of the burst (R163, R221). -/
theorem window_runs {s : State} (hs : Drawing .drawWin s) (ho : s.xferOpen = false) : Reaches s s.windowSent := by
  have hopen : Reaches s (s.sent [.startTransfer]).openWindow :=
    .of_presents hs.answers fun b => step_drawWin_closed (s := { s with bus := b }) hs.notReset hs.inPhase ho
  have hburst := burst_runs (s := (s.sent [.startTransfer]).openWindow) { hs.sent [.startTransfer] with } rfl rfl
  exact hopen.trans hburst

/-! ### The data phase -/

/-- `s` with the data phase over: `n` blocks from BLK_IDX on have been sent, the last one from SCRATCH. -/
def State.dataSent (n : Nat) (scratch : Block) (s : State) : State :=
  { s.sent (dataEvents s.pix (s.tPtr + 8 * s.blkIdx.toNat) n) with
    phase := .drawEnd, blkIdx := s.tCnt, scratch := scratch }

/-- `s` with the block BLK_IDX converted and sent. -/
def State.oneBlockSent (s : State) : State :=
  { s.sent [.sendData (convert (pixBlock s.pix (s.tPtr + 8 * s.blkIdx.toNat)))] with
    scratch := convert (pixBlock s.pix (s.tPtr + 8 * s.blkIdx.toNat)), blkIdx := s.blkIdx + 1 }

/-- The SendData that is due is accepted in the end. -/
theorem due_block_runs {s : State} (hr : s.rst = none) (hp : s.phase = .drawData) (hd : s.blockDue = true)
    (ha : s.busAnswers = true) : Reaches s (s.sent [.sendData s.scratch]).blockSent :=
  .of_presents ha fun b => (step_drawData (s := { s with bus := b }) hr hp).trans (if_pos hd)

theorem block_runs {s : State} (hs : Drawing .drawData s) (hk : s.blkIdx.toNat < s.tCnt.toNat)
    (hfits : s.tPtr + 8 * s.tCnt.toNat ≤ 2 ^ s.cfg.paWidth) : Reaches s s.oneBlockSent := by
  obtain ⟨hr, hp, -, hd, ha⟩ := hs
  have hconvert := step_converts_block hr hp hd hk (by omega)
  have hback : State.blockSent ((s.convertBlock (pixBlock s.pix (s.tPtr + 8 * s.blkIdx.toNat))).sent
      [.sendData (convert (pixBlock s.pix (s.tPtr + 8 * s.blkIdx.toNat)))]) = s.oneBlockSent := by
    simp only [State.blockSent, State.convertBlock, State.sent, State.oneBlockSent, hd]
  exact hback ▸ (Reaches.one hconvert).trans (due_block_runs hr hp rfl ha)

theorem dataSent_oneBlockSent {s : State} (hk : s.blkIdx.toNat < s.tCnt.toNat) (n : Nat) (scratch : Block) :
    s.oneBlockSent.dataSent n scratch = s.dataSent (n + 1) scratch := by
  have haddr : s.tPtr + 8 * (s.blkIdx + 1).toNat = s.tPtr + 8 * s.blkIdx.toNat + 8 := by bv_omega
  simp only [State.dataSent, State.oneBlockSent, State.sent, dataEvents, haddr, List.append_assoc, List.drop_drop,
    List.singleton_append, List.length_cons, List.length_nil, Nat.zero_add, Nat.add_comm 1]

/-- DRAW_DATA: one SendData for each block that is left (R181, R221). -/
theorem data_runs (n : Nat) {s : State} (hs : Drawing .drawData s) (hn : s.blkIdx.toNat + n = s.tCnt.toNat)
    (hfits : s.tPtr + 8 * s.tCnt.toNat ≤ 2 ^ s.cfg.paWidth) : ∃ scratch, Reaches s (s.dataSent n scratch) := by
  induction n generalizing s with
  | zero =>
    have hidx : s.blkIdx = s.tCnt := BitVec.eq_of_toNat_eq hn
    have hstep : step s = .next { s with phase := .drawEnd } := by
      rw [step_drawData hs.notReset hs.inPhase, stepDrawData, if_neg (by simp [hs.noBlockDue]), if_neg (by omega)]
    refine ⟨s.scratch, .one ?_⟩
    rw [hstep, State.dataSent, dataEvents, sent_nil, ← hidx]
  | succ n ih =>
    have hk : s.blkIdx.toNat < s.tCnt.toNat := by omega
    have hnext : Drawing .drawData s.oneBlockSent := { hs.sent _ with }
    have hleft : (s.blkIdx + 1).toNat + n = s.tCnt.toNat := by bv_omega
    obtain ⟨scratch, hrest⟩ := ih hnext hleft hfits
    rw [dataSent_oneBlockSent hk] at hrest
    exact ⟨scratch, (block_runs hs hk hfits).trans hrest⟩

theorem step_drawEnd {s : State} (hr : s.rst = none) (hp : s.phase = .drawEnd) :
    step s = present .endTransfer s fun t => t.closeXfer.finish true := by
  simp only [step, hr, hp, stepDrawEnd]

/-- DRAW_END: EndTransfer, and the end of the message (R221). -/
theorem end_runs {s : State} (hr : s.rst = none) (hp : s.phase = .drawEnd) (ha : s.busAnswers = true) :
    Reaches s ((s.sent [.endTransfer]).closeXfer.finish true) :=
  .of_presents ha fun b => step_drawEnd (s := { s with bus := b }) hr hp

/-! ### The tile -/

/-- The events of DrawTile for the latched tile (R221). -/
def State.tileEvents (s : State) : List BusEvent :=
  .startTransfer :: (windowEvents s.cfg s.tX s.tY ++ dataEvents s.pix s.tPtr s.tCnt.toNat ++ [.endTransfer])

/-- `s` with the tile drawn and its bracket closed: what is left to do is to end the message. -/
def State.tileDrawn (scratch : Block) (s : State) : State :=
  { s.sent s.tileEvents with
    phase := .drawEnd
    xferOpen := false
    row := windowRow s.cfg s.tY
    col := windowCol s.cfg s.tX
    colEnd := windowColEnd s.cfg
    blkIdx := s.tCnt
    scratch := scratch
    burst := [] }

theorem tileDrawn_eq (scratch : Block) (s : State) :
    ((s.windowSent.dataSent s.tCnt.toNat scratch).sent [.endTransfer]).closeXfer = s.tileDrawn scratch := by
  simp [State.windowSent, State.dataSent, State.tileDrawn, State.tileEvents, State.sent, State.closeXfer,
    Nat.add_right_comm _ 1, Nat.add_assoc]

/-- DrawTile's body runs to the end of its message, with success (R221). -/
theorem tile_runs {s : State} (hs : Drawing .drawWin s) (ho : s.xferOpen = false)
    (hfits : s.tPtr + 8 * s.tCnt.toNat ≤ 2 ^ s.cfg.paWidth) :
    ∃ scratch, Reaches s ((s.tileDrawn scratch).finish true) := by
  have hdata : Drawing .drawData s.windowSent := { (hs.sent _).sent _ with inPhase := rfl }
  obtain ⟨scratch, hblocks⟩ := data_runs s.tCnt.toNat hdata (Nat.zero_add _) hfits
  have hend := end_runs (s := s.windowSent.dataSent s.tCnt.toNat scratch) hs.notReset rfl (hdata.sent _).answers
  rw [tileDrawn_eq] at hend
  exact ⟨scratch, ((window_runs hs ho).trans hblocks).trans hend⟩

/-! ### The message -/

/-- `s` with the message `m` taken from its port and latched (R200). -/
def State.received (m : Message) (rest : List Message) (s : State) : State :=
  latched m.tag m.arg m.tile { s with msgs := rest }

/-- The message on the port is received, and its handler begins. -/
theorem Offered.step_eq {m : Message} {rest : List Message} {s : State} (h : Offered m rest s) :
    step s = .next (handlerOf m.tag (s.received m rest)) := by
  obtain ⟨hr, hp, hready, -, hm, -, -⟩ := h
  rw [(stepRunsTheMessageOnThePort s m rest hr hp hready hm).1]
  exact exec_at_port (s := { s with msgs := rest }) hp hready m

/-- An admitted DRAW runs to the end of its message (R220, R221). -/
theorem draw_runs {m : Message} {rest : List Message} {s : State} (h : Offered m rest s) (htag : m.tag = 15)
    (ha : s.busAnswers = true) (hs : s.pstate ≠ .deepSleep) (hu : s.pstate ≠ .uninit)
    (hfits : tileFits s.cfg m.tile = true) :
    ∃ scratch, Reaches s (((s.received m rest).tileDrawn scratch).finish true) := by
  have hstep : step s = .next (s.received m rest).beginDraw := by
    rw [h.step_eq, htag]
    exact congrArg _ (drawTile_admitted (s := s.received m rest) hs hu)
  have hdraw : Drawing .drawWin (s.received m rest).beginDraw := ⟨h.notReset, rfl, h.noneUnderWay, h.noBlockDue, ha⟩
  obtain ⟨scratch, hrun⟩ := tile_runs hdraw h.closed (of_decide_eq_true hfits)
  exact ⟨scratch, (Reaches.one hstep).trans hrun⟩

/-- Settles O34: the run of DRAW, with its message ended. -/
theorem drawTileEmitsOneBracketAndSucceeds : Obligations.DrawTileEmitsOneBracketAndSucceeds := by
  intro s m rest h htag ha hs hu hfits
  obtain ⟨scratch, n, hrun⟩ := draw_runs h htag ha hs hu hfits
  have hend : ((s.received m rest).tileDrawn scratch).finish true =
      messageEnded true ((s.received m rest).tileDrawn scratch) := by
    have hdraw : ((s.received m rest).tileDrawn scratch).mTag = 15 := htag
    exact finish_of_keep rfl (finishRamValid_keep (by simp [hdraw]) (by simp [hdraw]) true)
  rw [hend] at hrun
  rw [← htag]
  exact ⟨n, _, _, _, scratch, hrun⟩

/-- A tile pointer of PA_WIDTH bits is latched as it is (R200). -/
theorem portPtr_of_lt {c : Config} {p : Nat} (h : p < 2 ^ c.paWidth) : c.portPtr p = p :=
  Nat.mod_eq_of_lt h

/-- Settles O35: the run of DRAW, with the window registers and the events of this tile. -/
theorem drawTileWorkedExample : Obligations.DrawTileWorkedExample := by
  intro s arg p rest h ha hs hheight hwidth hoff hfits
  have hptr : s.cfg.portPtr p = p := portPtr_of_lt (by omega)
  obtain ⟨scratch, hrun⟩ := draw_runs h rfl ha (by simp [hs]) (by simp [hs])
    (decide_eq_true (by rw [hptr]; exact hfits))
  have hrow : windowRow s.cfg 0 = 24 := by rw [windowRow, hheight]; decide
  have hcol : windowCol s.cfg 3 = 0x0018 := by rw [windowCol, hoff]; decide
  have hend : windowColEnd s.cfg = 0x00C7 := by rw [windowColEnd, hwidth]; decide
  refine ⟨_, hrun, rfl, rfl, rfl, rfl, hrow, hcol, hend,
    congrArg (s.trace ++ ·) (?_ : drawTrace s.cfg s.pix ⟨3, 0, 3, p⟩ = _)⟩
  simp only [drawTrace, windowEvents, hrow, hcol, hend, hptr]
  rfl

/-- Settles O19: DRAW_WIN before its bracket is open, with the window registers as numbers. -/
theorem drawOpensTheBracketAndComputesTheWindow : Obligations.DrawOpensTheBracketAndComputesTheWindow := by
  intro s hr hp ho hb
  refine ⟨windowRow s.cfg s.tY, windowCol s.cfg s.tX, windowColEnd s.cfg, ?_, toNat_windowRow s.cfg s.tY,
    toNat_windowCol s.cfg s.tX, toNat_windowColEnd⟩
  rw [step_drawWin_closed hr hp ho, present_of_takes hb]
  rfl

end Sys2Proof.Machine
end

section
/-!
PROOF. A message as a whole (44_operations.md R204): the step level ends every message as the message level says, with
the power states of R245, and REFRESH holds READY at 0 for the settle time (R233, R234).

`Carried` says what a message under way has left behind of the state it was received in, `Ended` what the message leaves
behind as a whole. Stored sequences carry a message on (`sequences_run`), and so does a drawn tile; `finish` ends it.
-/
namespace Sys2Proof.Machine

/-! ### A message under way, and its end -/

/-- `u` is the block with no bracket open and no command half sent, inside a message received in `s`, which has had the
events `es` accepted and has waited `ms` ticks. -/
structure Carried (rest : List Message) (es : List BusEvent) (ms : Nat) (s u : State) : Prop where
  notReset : u.rst = none
  closed : u.xferOpen = false
  noneUnderWay : u.cmdSent = false
  msgs : u.msgs = rest
  cfg : u.cfg = s.cfg
  pix : u.pix = s.pix
  fault : u.fault = s.fault
  faultCause : u.faultCause = s.faultCause
  faultPc : u.faultPc = s.faultPc
  trace : u.trace = s.trace ++ es
  bus : u.bus = s.bus.drop es.length
  waitedMs : u.waitedMs = s.waitedMs + ms

/-- `t` is the block between messages after the message received in `s`, which has left `o` behind (R204). -/
structure Ended (rest : List Message) (o : OpResult) (s t : State) : Prop where
  notReset : t.rst = none
  idle : t.phase = .idle
  ready : t.ready = true
  done : t.done = true
  closed : t.xferOpen = false
  msgs : t.msgs = rest
  cfg : t.cfg = s.cfg
  pix : t.pix = s.pix
  fault : t.fault = s.fault
  faultCause : t.faultCause = s.faultCause
  faultPc : t.faultPc = s.faultPc
  result : t.result = o.result
  pstate : t.pstate = o.pstate
  ramValid : t.ramValid = o.ramValid
  trace : t.trace = s.trace ++ o.trace
  bus : t.bus = s.bus.drop o.trace.length
  waitedMs : t.waitedMs = s.waitedMs + o.delayMs

theorem Offered.carried {m : Message} {rest : List Message} {s : State} (h : Offered m rest s) :
    Carried rest [] 0 s (s.received m rest) where
  notReset := h.notReset
  closed := h.closed
  noneUnderWay := h.noneUnderWay
  msgs := rfl
  cfg := rfl
  pix := rfl
  fault := rfl
  faultCause := rfl
  faultPc := rfl
  trace := (List.append_nil _).symm
  bus := rfl
  waitedMs := rfl

theorem Carried.finish {rest : List Message} {o : OpResult} {s u : State} (h : Carried rest o.trace o.delayMs s u)
    (hp : u.finishPState o.result = o.pstate) (hv : u.finishRamValid o.result = o.ramValid) :
    Ended rest o s (u.finish o.result) :=
  { h with idle := rfl, ready := rfl, done := rfl, result := rfl, pstate := hp, ramValid := hv }

/-! ### Stored sequences -/

/-- `s` at the END of the well-formed stored sequence at `base`, with SEQ_PC and DLY_CNT as given (R110). -/
def State.ranSequence (base pc : Half) (dly : Byte) (s : State) : State :=
  { s with
    seqPc := pc
    dlyCnt := dly
    trace := s.trace ++ sequenceTrace s.cfg base
    bus := s.bus.drop (sequenceTrace s.cfg base).length
    xferSeen := true
    waitedMs := s.waitedMs + sequenceDelay s.cfg base }

/-- A well-formed stored sequence runs to its END, and END hands over or ends the message (R107, R205). -/
theorem sequence_runs {base : Half} {s : State} (hat : AtSequence base s) (ha : s.busAnswers = true)
    (hsize : s.cfg.seqMemSize ≤ 65536) (hwf : wfSequence s.cfg base = true) :
    ∃ n pc dly, Steps n s (s.ranSequence base pc dly) ∧
      step (s.ranSequence base pc dly) = .next (s.ranSequence base pc dly).seqDone := by
  obtain ⟨n, pc, dly, hrun, hend⟩ := wellFormedSequenceRunsToItsEnd s base hat ha hsize hwf
  have hfetch : fetchInstr s.cfg (s.ranSequence base pc dly).fetchAddr = some .endSeq := by
    rw [fetchAddr_of_not_past (s := s.ranSequence base pc dly) hat.notPast]
    exact hend
  have hstep := step_of_fetch (s := s.ranSequence base pc dly) hat.notReset hat.inSeq hfetch
  exact ⟨n, pc, dly, hrun, hstep.trans (exec_endSeq_of_check (endCheck_eq_none.mpr ⟨hat.closed, rfl⟩))⟩

theorem Carried.atSequence {rest : List Message} {es : List BusEvent} {ms : Nat} {s u : State}
    (h : Carried rest es ms s u) (base : Half) : AtSequence base (sequenceStarted base u) :=
  ⟨h.notReset, rfl, rfl, rfl, h.closed, rfl, h.noneUnderWay⟩

theorem Carried.ranSequence {rest : List Message} {es : List BusEvent} {ms : Nat} {s u : State}
    (h : Carried rest es ms s u) (base pc : Half) (dly : Byte) :
    Carried rest (es ++ sequenceTrace s.cfg base) (ms + sequenceDelay s.cfg base) s
      ((sequenceStarted base u).ranSequence base pc dly) :=
  { h with
    trace := by simp [State.ranSequence, h.cfg, h.trace]
    bus := by simp [State.ranSequence, h.cfg, h.bus]
    waitedMs := by simp [State.ranSequence, h.cfg, h.waitedMs, Nat.add_assoc] }

/-- A well-formed stored sequence of a message under way runs to its END, which hands over or ends the message. -/
theorem Carried.sequence_runs {rest : List Message} {es : List BusEvent} {ms : Nat} {s u : State}
    (hu : Carried rest es ms s u) (ha : s.busAnswers = true) (hsize : s.cfg.seqMemSize ≤ 65536) {base : Half}
    (hwf : wfSequence s.cfg base = true) :
    ∃ pc dly, Reaches (sequenceStarted base u) ((sequenceStarted base u).ranSequence base pc dly).seqDone := by
  rw [← hu.cfg] at hsize hwf
  obtain ⟨n, pc, dly, hrun, hend⟩ := Machine.sequence_runs (hu.atSequence base) (busAnswers_drop hu.bus ha) hsize hwf
  exact ⟨pc, dly, _, hrun.trans (.one hend)⟩

/-- The sequence at `base` runs, then those in SEQ_Q, and the message ends with success (R205). -/
theorem sequences_run {rest : List Message} {s : State} (ha : s.busAnswers = true) (hsize : s.cfg.seqMemSize ≤ 65536)
    (q : List Half) {base : Half} {es : List BusEvent} {ms : Nat} {u : State} (hu : Carried rest es ms s u)
    (hq : u.seqQ = q) (hwf : ∀ b ∈ base :: q, wfSequence s.cfg b = true) :
    ∃ v, Reaches (sequenceStarted base u) (v.finish true) ∧
      Carried rest (es ++ (base :: q).flatMap (sequenceTrace s.cfg))
        (ms + ((base :: q).map (sequenceDelay s.cfg)).sum) s v ∧
      v.finishPState true = u.finishPState true ∧ v.finishRamValid true = u.finishRamValid true := by
  induction q generalizing base es ms u with
  | nil =>
    obtain ⟨pc, dly, hrun⟩ := hu.sequence_runs ha hsize (hwf base List.mem_cons_self)
    rw [seqDone_nil (s := (sequenceStarted base u).ranSequence base pc dly) hq] at hrun
    refine ⟨_, hrun, ?_, rfl, rfl⟩
    simpa using hu.ranSequence base pc dly
  | cons b q ih =>
    obtain ⟨hbase, hwf⟩ := List.forall_mem_cons.mp hwf
    obtain ⟨pc, dly, hrun⟩ := hu.sequence_runs ha hsize hbase
    rw [seqDone_cons (s := (sequenceStarted base u).ranSequence base pc dly) hq] at hrun
    have hnext : Carried rest (es ++ sequenceTrace s.cfg base) (ms + sequenceDelay s.cfg base) s
        { (sequenceStarted base u).ranSequence base pc dly with seqQ := q } := { hu.ranSequence base pc dly with }
    obtain ⟨v, hrun', hv, hp, hram⟩ := ih hnext rfl hwf
    refine ⟨v, hrun.trans hrun', ?_, hp, hram⟩
    simpa [List.append_assoc, Nat.add_assoc] using hv

/-! ### What the premises of R10 give -/

theorem wf_of_configPremises {c : Config} (h : configPremises c = true) : allSequencesWf c = true := by
  simp only [configPremises, Bool.and_eq_true] at h
  exact h.1.1.2

theorem romSize_of_configPremises {c : Config} (h : configPremises c = true) : c.seqMemSize ≤ 65536 := by
  simp only [configPremises, configInRange, Bool.and_eq_true, decide_eq_true_eq] at h
  exact h.1.1.1.2

theorem settle_of_configPremises {c : Config} (h : configPremises c = true) :
    sequenceDelay c c.baseRefresh = c.settleMs := by
  simp only [configPremises, Bool.and_eq_true, decide_eq_true_eq] at h
  exact h.1.2

/-! ### What the message level says of each message -/

/-- What a message leaves behind that runs the stored sequences at `bases` and succeeds. -/
def sequencesResult (c : Config) (bases : List Half) (p : PState) (v : Bool) : OpResult :=
  ⟨p, v, true, bases.flatMap (sequenceTrace c), (bases.map (sequenceDelay c)).sum⟩

section
variable {c : Config} {pix : Mem} {p : PState} {v : Bool} {arg : Byte} {tile : Tile}

theorem op_init : op c pix p v ⟨10, arg, tile⟩ = sequencesResult c [c.baseInit, c.baseActive] .active true := by
  simp [op, decodeMsg, sequencesResult]

theorem op_powersave_active : op c pix p v ⟨11, 0, tile⟩ = sequencesResult c [c.baseActive] .active v := by
  simp [op, decodeMsg, sequencesResult]

theorem op_powersave_sleep (harg : arg ≠ 0) :
    op c pix p v ⟨11, arg, tile⟩ = sequencesResult c [c.baseSleep] .deepSleep false :=
  (if_neg harg).trans (by simp [sequencesResult])

theorem op_refresh : op c pix p v ⟨16, arg, tile⟩ = sequencesResult c [c.baseRefresh] p v := by
  simp [op, decodeMsg, sequencesResult]

theorem op_draw_refused (h : p = .deepSleep ∨ p = .uninit) : op c pix p v ⟨15, arg, tile⟩ = ⟨p, v, false, [], 0⟩ :=
  if_pos h

theorem op_draw_admitted (h : ¬(p = .deepSleep ∨ p = .uninit)) :
    op c pix p v ⟨15, arg, tile⟩ = ⟨p, v, true, drawTrace c pix tile, 0⟩ :=
  if_neg h

theorem op_unknown {m : Message} (h : recognisedTag m.tag = false) : op c pix p v m = ⟨p, v, false, [], 0⟩ := by
  rw [op, decodeMsg_unknown h]

/-- A message that fails has no event (R241). -/
theorem op_trace_of_failure {m : Message} (h : (op c pix p v m).result = false) : (op c pix p v m).trace = [] := by
  unfold op at *
  generalize decodeMsg m = i at h ⊢
  cases i with
  | init | refresh => cases h
  | powersave => dsimp only at h; split at h <;> cases h
  | draw =>
    dsimp only at h ⊢
    split at h
    · rename_i hp; rw [if_pos hp]
    · cases h
  | _ => rfl

end

/-! ### The messages -/

section
variable {m : Message} {rest : List Message} {s : State} (h : Offered m rest s)
include h

/-- A message whose handler ends it at once. -/
theorem Offered.ends_at_once {o : OpResult} (hhandler : handlerOf m.tag = State.finish o.result) (htrace : o.trace = [])
    (hdelay : o.delayMs = 0) (hp : s.pstate = o.pstate)
    (hv : (s.received m rest).finishRamValid o.result = o.ramValid) :
    ∃ t, Reaches s t ∧ Ended rest o s t := by
  have hstep := h.step_eq
  have hu : Carried rest o.trace o.delayMs s (s.received m rest) := by rw [htrace, hdelay]; exact h.carried
  rw [hhandler] at hstep
  exact ⟨_, .one hstep, hu.finish ((finishPState_keep rfl _).trans hp) hv⟩

/-- A message whose handler begins a stored sequence, with others queued behind it and a PSTATE pending. -/
theorem Offered.ends_by_sequences (hc : configPremises s.cfg = true) (ha : s.busAnswers = true) {base : Half}
    {q : List Half} {pend : Option PState} {v : Bool}
    (hhandler : handlerOf m.tag (s.received m rest) =
      sequenceStarted base { s.received m rest with seqQ := q, pendPs := pend })
    (hwf : ∀ b ∈ base :: q, wfSequence s.cfg b = true) (hv : (s.received m rest).finishRamValid true = v) :
    ∃ t, Reaches s t ∧ Ended rest (sequencesResult s.cfg (base :: q) (pend.getD s.pstate) v) s t := by
  have hstep := h.step_eq
  have hu : Carried rest [] 0 s { s.received m rest with seqQ := q, pendPs := pend } := { h.carried with }
  rw [hhandler] at hstep
  obtain ⟨u, hrun, hcarried, hp, hram⟩ := sequences_run ha (romSize_of_configPremises hc) q hu rfl hwf
  rw [List.nil_append, Nat.zero_add] at hcarried
  exact ⟨_, (Reaches.one hstep).trans hrun,
    hcarried.finish (o := sequencesResult s.cfg (base :: q) (pend.getD s.pstate) v)
      (hp.trans (finishPState_true _)) (hram.trans hv)⟩

end

/-- A DRAW ends as the message level says, where R53 admits its buffer. -/
theorem Offered.draw_ends {arg : Byte} {tile : Tile} {rest : List Message} {s : State}
    (h : Offered ⟨15, arg, tile⟩ rest s) (ha : s.busAnswers = true) (hfits : tileFits s.cfg tile = true) :
    ∃ t, Reaches s t ∧ Ended rest (op s.cfg s.pix s.pstate s.ramValid ⟨15, arg, tile⟩) s t := by
  have hram : ∀ r, (s.received ⟨15, arg, tile⟩ rest).finishRamValid r = s.ramValid :=
    finishRamValid_keep (s := s.received ⟨15, arg, tile⟩ rest) (by simp [State.received]) (by simp [State.received])
  by_cases hp : s.pstate = .deepSleep ∨ s.pstate = .uninit
  · have hstep := h.step_eq.trans (congrArg _ (drawTile_refused (s := s.received ⟨15, arg, tile⟩ rest) hp))
    rw [op_draw_refused hp]
    exact ⟨_, .one hstep, h.carried.finish (o := ⟨s.pstate, s.ramValid, false, [], 0⟩) rfl (hram false)⟩
  · obtain ⟨hs, hu⟩ := not_or.mp hp
    obtain ⟨scratch, hrun⟩ := draw_runs h rfl ha hs hu hfits
    have hdrawn : Carried rest (drawTrace s.cfg s.pix tile) 0 s ((s.received ⟨15, arg, tile⟩ rest).tileDrawn scratch) :=
      { h.carried with closed := rfl, trace := rfl, bus := rfl }
    rw [op_draw_admitted hp]
    exact ⟨_, hrun, hdrawn.finish (o := ⟨s.pstate, s.ramValid, true, drawTrace s.cfg s.pix tile, 0⟩) rfl (hram true)⟩

/-- Every message ends as the message level says. -/
theorem Offered.ends {m : Message} {rest : List Message} {s : State} (h : Offered m rest s)
    (hc : configPremises s.cfg = true) (ha : s.busAnswers = true) (hfits : m.tag = 15 → tileFits s.cfg m.tile = true) :
    ∃ t, Reaches s t ∧ Ended rest (op s.cfg s.pix s.pstate s.ramValid m) s t := by
  obtain ⟨hinit, hactive, hsleep, hrefresh⟩ := wfSequences_of_allSequencesWf (wf_of_configPremises hc)
  cases hrec : recognisedTag m.tag with
  | false =>
    rw [op_unknown hrec]
    exact h.ends_at_once (handlerOf_unknown hrec) rfl rfl rfl (finishRamValid_false _)
  | true =>
    obtain ⟨tag, arg, tile⟩ := m
    rcases recognisedTag_iff.mp hrec with rfl | rfl | rfl | rfl | rfl | rfl
    · exact h.ends_at_once rfl rfl rfl rfl rfl
    · rw [op_init]
      exact h.ends_by_sequences hc ha (pend := some .active) rfl (by simp [hinit, hactive]) rfl
    · by_cases harg : arg = 0
      · subst harg
        rw [op_powersave_active]
        exact h.ends_by_sequences hc ha (pend := some .active) rfl (by simp [hactive]) rfl
      · rw [op_powersave_sleep harg]
        exact h.ends_by_sequences hc ha (pend := some .deepSleep) (if_neg harg) (by simp [hsleep])
          (finishRamValid_of_sleep rfl harg)
    · exact h.ends_at_once rfl rfl rfl rfl rfl
    · exact h.draw_ends ha (hfits rfl)
    · rw [op_refresh]
      exact h.ends_by_sequences hc ha (pend := none) rfl (by simp [hrefresh]) rfl

/-- Settles O49: `Ended`, field by field. -/
theorem stepLevelAgreesWithMessageLevel : Obligations.StepLevelAgreesWithMessageLevel := by
  intro s m rest h hc ha hfits
  obtain ⟨t, hrun, e⟩ := h.ends hc ha hfits
  exact ⟨t, hrun, e.notReset, e.idle, e.ready, e.done, e.closed, e.msgs, e.cfg, e.pix, e.fault, e.faultCause, e.faultPc,
    e.result, e.pstate, e.ramValid, e.trace, e.bus, e.waitedMs⟩

/-- DrawTile's state check has two values of PSTATE on each side (R220). -/
theorem not_refused_iff {p : PState} : ¬(p = .deepSleep ∨ p = .uninit) ↔ p = .active ∨ p = .psLight := by
  cases p <;> decide

/-- Settles O50: PSTATE and RESULT of each message are those of `op`. -/
theorem powerStateTransitionTable : Obligations.PowerStateTransitionTable := by
  intro s m rest h hc ha hfits
  obtain ⟨t, hrun, e⟩ := h.ends hc ha hfits
  have hfail : t.result = false → t.trace = s.trace := fun hr => by
    rw [e.trace, op_trace_of_failure (e.result.symm.trans hr), List.append_nil]
  obtain ⟨tag, arg, tile⟩ := m
  refine ⟨t, hrun, e.msgs, e.idle, e.ready, e.done, ?_, ?_, ?_, ?_, ?_, ?_, ?_, hfail⟩
  · rintro rfl
    exact ⟨e.pstate, e.result⟩
  · rintro rfl rfl
    exact ⟨e.pstate, e.result⟩
  · rintro rfl harg
    rw [op_powersave_sleep harg] at e
    exact ⟨e.pstate, e.result⟩
  · rintro rfl
    by_cases hp : s.pstate = .deepSleep ∨ s.pstate = .uninit
    · rw [op_draw_refused hp] at e
      exact ⟨e.pstate, iff_of_false (by simp [e.result]) fun h => not_refused_iff.mpr h hp⟩
    · rw [op_draw_admitted hp] at e
      exact ⟨e.pstate, iff_of_true e.result (not_refused_iff.mp hp)⟩
  · rintro rfl
    exact ⟨e.pstate, e.result⟩
  · rintro (rfl | rfl)
    · exact ⟨e.pstate, e.result⟩
    · exact ⟨e.pstate, e.result⟩
  · intro hrec
    rw [op_unknown hrec] at e
    exact ⟨e.pstate, e.result⟩

/-! ### READY through a run -/

/-- A run is determined by where it starts: a shorter one is the beginning of a longer one. -/
theorem Steps.rest {k n : Nat} {s u t : State} (hu : Steps k s u) (ht : Steps n s t) (hk : k ≤ n) :
    Steps (n - k) u t := by
  induction hu generalizing n with
  | refl s => exact ht
  | cons hstep _ ih =>
    cases ht with
    | refl => omega
    | cons hstep' ht' =>
      cases hstep.symm.trans hstep'
      rw [Nat.add_sub_add_right]
      exact ih ht' (by omega)

theorem handlerOf_keeps_port (tag : Byte) (s : State) :
    (handlerOf tag s).rst = s.rst ∧ (handlerOf tag s).msgs = s.msgs := by
  rcases handlerOf_cases tag s with ⟨he, -⟩ | ⟨he, -⟩ | ⟨b, q, p, he, -⟩ | ⟨he, -⟩ <;> rw [he] <;> exact ⟨rfl, rfl⟩

/-- No step asserts RST, and the host's messages only get fewer. -/
theorem StepShape.port_le {s t : State} (hs : StepShape s t) : t.rst = s.rst ∧ t.msgs.length ≤ s.msgs.length := by
  cases hs with
  | accepts hp hr m rest hm =>
    obtain ⟨hrst, hmsgs⟩ := handlerOf_keeps_port m.tag (latched m.tag m.arg m.tile { s with msgs := rest })
    exact ⟨hrst, by rw [hmsgs, hm]; exact Nat.le_succ _⟩
  | _ => simp

/-- READY goes from 1 to 0 only where a message is taken (R200). -/
theorem StepShape.stays_ready_or_takes {s t : State} (hs : StepShape s t) (hready : s.ready = true) :
    t.ready = true ∨ t.msgs.length < s.msgs.length := by
  cases hs with
  | accepts hp hr m rest hm =>
    right
    rw [(handlerOf_keeps_port m.tag (latched m.tag m.arg m.tile { s with msgs := rest })).2, hm]
    exact Nat.lt_succ_self _
  | _ => left; simp [hready]

theorem Steps.port_le {n : Nat} {s t : State} (h : Steps n s t) (hr : s.rst = none) :
    t.rst = none ∧ t.msgs.length ≤ s.msgs.length := by
  induction h with
  | refl s => exact ⟨hr, Nat.le_refl _⟩
  | cons hstep _ ih =>
    obtain ⟨hrst, hle⟩ := (step_shape hr hstep).port_le
    obtain ⟨hrst', hle'⟩ := ih (hrst.trans hr)
    exact ⟨hrst', hle'.trans hle⟩

theorem Steps.stays_ready_or_takes {n : Nat} {s t : State} (h : Steps n s t) (hr : s.rst = none)
    (hready : s.ready = true) : t.ready = true ∨ t.msgs.length < s.msgs.length := by
  induction h with
  | refl s => exact .inl hready
  | cons hstep hrest ih =>
    have hs := step_shape hr hstep
    obtain ⟨hrst, hle⟩ := hs.port_le
    rcases hs.stays_ready_or_takes hready with hready' | hlt
    · exact (ih (hrst.trans hr) hready').imp_right (Nat.lt_of_lt_of_le · hle)
    · exact .inr (Nat.lt_of_le_of_lt (hrest.port_le (hrst.trans hr)).2 hlt)

/-- A run that ends with READY 0 and with the host's messages as they were has READY 0 all along: once READY is 1, only
the acceptance of a message clears it. -/
theorem Steps.ready_false {k n : Nat} {s u t : State} (hu : Steps k s u) (ht : Steps n s t) (hk : k ≤ n)
    (hr : s.rst = none) (hready : t.ready = false) (hmsgs : t.msgs = s.msgs) : u.ready = false := by
  obtain ⟨hrst, hle⟩ := hu.port_le hr
  cases hur : u.ready with
  | false => rfl
  | true =>
    rcases (hu.rest ht hk).stays_ready_or_takes hrst hur with h | h
    · exact absurd h (by simp [hready])
    · rw [hmsgs] at h
      exact absurd hle (Nat.not_le.mpr h)

/-- Settles O52: the handler, the run of the refresh sequence with READY 0, and its END. -/
theorem refreshHoldsReadyForTheSettleTime : Obligations.RefreshHoldsReadyForTheSettleTime := by
  intro s m rest h hc ha htag
  obtain ⟨-, -, -, hwf⟩ := wfSequences_of_allSequencesWf (wf_of_configPremises hc)
  have hstep : step s = .next (sequenceStarted s.cfg.baseRefresh (s.received m rest)) := by
    rw [h.step_eq, htag]
    rfl
  obtain ⟨n, pc, dly, hrun, hend⟩ :=
    sequence_runs (h.carried.atSequence s.cfg.baseRefresh) ha (romSize_of_configPremises hc) hwf
  rw [seqDone_nil rfl] at hend
  refine ⟨n + 1 + 1, _, .cons hstep (hrun.trans (.one hend)), rfl, rfl, rfl, rfl, ?_, ?_⟩
  · rw [← settle_of_configPremises hc]
    exact Nat.le_refl _
  · intro k u hpos hk hu
    cases hu with
    | refl => cases hpos
    | cons hstep' hu =>
      cases hstep.symm.trans hstep'
      exact hu.ready_false hrun (by omega) h.notReset rfl rfl

end Sys2Proof.Machine
end

section
/-!
PROOF. The exceptions (60_exceptions.md): the order of the checks of one step in SEQ (R254, with the fetch of
40_sequence_interpreter.md R108), and the one way out of FAULTED (R251, R253).
-/
namespace Sys2Proof.Machine

/-! ### The bytes that the fetch reads -/

section
variable {c : Config} {pc : Nat}

theorem memReadSeq_opcode (hpc : pc < c.seqMemSize) : memReadSeq c pc 1 = some [memRead c.seqMem pc] :=
  memReadSeq_eq_some.mpr ⟨hpc, rfl⟩

/-- A fixed operand form: one read takes the whole instruction (R72). -/
theorem fetchBytes_fixed {k : Nat} (hpc : pc < c.seqMemSize) (hform : operandForm (memRead c.seqMem pc) = .fixed k) :
    fetchBytes c pc = memReadSeq c pc (1 + k) := by
  simp only [fetchBytes, memReadSeq_opcode hpc, hform]

theorem operandForm_cmd_or_dly {b : Byte} (h : b = 0x03 ∨ b = 0xFE) : operandForm b = .fixed 1 := by
  rcases h with rfl | rfl <;> rfl

theorem operandForm_cmda {b : Byte} (h : b = 0x04) : operandForm b = .counted := by
  subst h
  rfl

/-- CMDA inside the ROM up to its count: the count decides how far the instruction is read (R72, R108). -/
theorem fetchBytes_counted (hop : memRead c.seqMem pc = 0x04) (hcount : pc + 3 ≤ c.seqMemSize) :
    fetchBytes c pc = memReadSeq c pc (3 + (memRead c.seqMem (pc + 2)).toNat) := by
  have hoperands : memReadSeq c (pc + 1) 2 = some [memRead c.seqMem (pc + 1), memRead c.seqMem (pc + 2)] :=
    memReadSeq_eq_some.mpr ⟨by omega, rfl⟩
  simp only [fetchBytes, memReadSeq_opcode (by omega : pc < c.seqMemSize), operandForm_cmda hop, hoperands]

theorem fetchInstr_of_no_bytes (h : fetchBytes c pc = none) : fetchInstr c pc = none := by
  simp only [fetchInstr, h]

theorem fetchInstr_of_bytes {bs r : List Byte} {i : Instr} (h : fetchBytes c pc = some bs)
    (hdec : decodeSeq bs = .ok (i, r)) : fetchInstr c pc = some i := by
  simp only [fetchInstr, h, hdec]

/-! ### The instruction that is fetched, by its opcode byte -/

/-- An instruction of one byte. -/
theorem fetchInstr_of_opcode {b : Byte} {i : Instr} (hpc : pc < c.seqMemSize) (hop : memRead c.seqMem pc = b)
    (hrom : i.inRom = true) (hwf : i.wf = true) (hbytes : romBytes i = [b]) : fetchInstr c pc = some i :=
  fetchInstr_romBytes hrom hwf <| by
    rw [Instr.len, hbytes, ← hop]
    exact memReadSeq_opcode hpc

/-- CMD or DLY, whose one operand byte lies in the ROM. -/
theorem fetchInstr_of_opcode_operand {b : Byte} {i : Instr} (hend : pc + 2 ≤ c.seqMemSize)
    (hop : memRead c.seqMem pc = b) (hrom : i.inRom = true) (hwf : i.wf = true)
    (hbytes : romBytes i = [b, memRead c.seqMem (pc + 1)]) : fetchInstr c pc = some i :=
  fetchInstr_romBytes hrom hwf <| by
    rw [Instr.len, hbytes, ← hop]
    exact memReadSeq_eq_some.mpr ⟨hend, rfl⟩

/-- CMDA, also with n = 0. -/
theorem fetchInstr_of_counted (hop : memRead c.seqMem pc = 0x04)
    (hend : pc + 3 + (memRead c.seqMem (pc + 2)).toNat ≤ c.seqMemSize) :
    fetchInstr c pc = some (.cmda (memRead c.seqMem (pc + 1))
      (memBytes c.seqMem (pc + 3) (memRead c.seqMem (pc + 2)).toNat)) := by
  have hhead : memBytes c.seqMem pc 3 = [0x04, memRead c.seqMem (pc + 1), memRead c.seqMem (pc + 2)] :=
    congrArg (· :: _) hop
  have hbytes := fetchBytes_counted hop (by omega : pc + 3 ≤ c.seqMemSize)
  rw [memReadSeq_eq_some.mpr ⟨by omega, memBytes_add _ _ _ _⟩, hhead] at hbytes
  have hlen := memBytes_length c.seqMem (pc + 3) (memRead c.seqMem (pc + 2)).toNat
  have hdec := decodeSeq_cmda (memRead c.seqMem (pc + 1)) _ _ hlen.ge
  rw [List.take_of_length_le hlen.le] at hdec
  exact fetchInstr_of_bytes hbytes hdec

/-- No opcode byte in the ROM (R51). -/
theorem fetchInstr_outside (hpc : c.seqMemSize ≤ pc) : fetchInstr c pc = none := by
  have hread : memReadSeq c pc 1 = none := memReadSeq_eq_none.mpr (by omega)
  exact fetchInstr_of_no_bytes (by simp only [fetchBytes, hread])

/-- The operand byte of CMD or DLY lies outside the ROM. -/
theorem fetchInstr_operand_outside (hpc : pc < c.seqMemSize)
    (hop : memRead c.seqMem pc = 0x03 ∨ memRead c.seqMem pc = 0xFE) (hend : c.seqMemSize ≤ pc + 1) :
    fetchInstr c pc = none := by
  refine fetchInstr_of_no_bytes ?_
  rw [fetchBytes_fixed hpc (operandForm_cmd_or_dly hop)]
  exact memReadSeq_eq_none.mpr (by omega)

/-- The command byte or the count of CMDA lies outside the ROM. -/
theorem fetchInstr_count_outside (hpc : pc < c.seqMemSize) (hop : memRead c.seqMem pc = 0x04)
    (hend : c.seqMemSize < pc + 3) : fetchInstr c pc = none := by
  have hoperands : memReadSeq c (pc + 1) 2 = none := memReadSeq_eq_none.mpr (by omega)
  exact fetchInstr_of_no_bytes (by simp only [fetchBytes, memReadSeq_opcode hpc, operandForm_cmda hop, hoperands])

/-- An argument byte of CMDA lies outside the ROM. -/
theorem fetchInstr_args_outside (hop : memRead c.seqMem pc = 0x04) (hcount : pc + 3 ≤ c.seqMemSize)
    (hend : c.seqMemSize < pc + 3 + (memRead c.seqMem (pc + 2)).toNat) : fetchInstr c pc = none := by
  refine fetchInstr_of_no_bytes ?_
  rw [fetchBytes_counted hop hcount]
  exact memReadSeq_eq_none.mpr (by omega)

end

/-! ### The checks in their order -/

theorem startCheck_of_open {s : State} (h : s.xferOpen = true) : startCheck s = some .nestedStart := if_pos h

theorem startCheck_of_seen {s : State} (hopen : s.xferOpen = false) (hseen : s.xferSeen = true) :
    startCheck s = some .secondTransfer := by
  simp [startCheck, hopen, hseen]

theorem endxCheck_of_closed {s : State} (h : s.xferOpen = false) : endxCheck s = some .unbalancedEndx := by
  simp [endxCheck, h]

theorem endCheck_of_unbalanced {s : State} (h : s.xferOpen = true ∨ s.xferSeen = false) :
    endCheck s = some .unbalancedEnd := by
  rcases h with h | h <;> simp [endCheck, h]

theorem memBytes_eq_nil {m : Mem} {a n : Nat} : memBytes m a n = [] ↔ n = 0 := by
  rw [← List.length_eq_zero_iff, memBytes_length]

/-- A fetched instruction with a failing check: the step raises the cause of the first one. -/
theorem step_of_check_fails {s : State} {i : Instr} {cause : FaultCause} (hr : s.rst = none) (hp : s.phase = .seq)
    (hf : fetchInstr s.cfg s.fetchAddr = some i) (hc : romCheck i s = some cause) :
    step s = .next (configFaulted cause s) :=
  (step_of_fetch hr hp hf).trans (exec_of_check_fails (fetchInstr_some hf).1 hc)

/-- Settles O26: where a byte is missing nothing is fetched; otherwise the first failing check of the fetched instruction
gives the cause. -/
theorem checksComeInTheOrderOfR108 : Obligations.ChecksComeInTheOrderOfR108 := by
  intro s hr hp hpast pc size byte
  have unread (hf : fetchInstr s.cfg pc = none) : step s = .next (configFaulted .fetchRange s) :=
    step_of_fetch_none hr hp (by rwa [fetchAddr_of_not_past hpast])
  have fails {i : Instr} {cause : FaultCause} (hf : fetchInstr s.cfg pc = some i) (hc : romCheck i s = some cause) :
      step s = .next (configFaulted cause s) :=
    step_of_check_fails hr hp (by rwa [fetchAddr_of_not_past hpast]) hc
  refine ⟨?opcodeRange, ?reserved, ?operandRange, ?countRange, ?emptyArgs, ?argsRange, ?cmdaOutside, ?outside,
    ?nestedStart, ?secondTransfer, ?unbalancedEndx, ?unbalancedEnd⟩
  case opcodeRange => exact fun hpc => unread (fetchInstr_outside hpc)
  case reserved =>
    intro hpc hres
    have hwf : (Instr.reserved (byte 0)).wf = true := by rw [Instr.wf, hres]; rfl
    exact fails (fetchInstr_of_opcode hpc rfl rfl hwf rfl) rfl
  case operandRange => exact fun hpc hop hend => unread (fetchInstr_operand_outside hpc hop hend)
  case countRange => exact fun hpc hop hend => unread (fetchInstr_count_outside hpc hop hend)
  case emptyArgs =>
    intro hop hcount hn
    have hargs : (byte 2).toNat = 0 := congrArg BitVec.toNat hn
    have hend : pc + 3 + (byte 2).toNat ≤ size := hargs ▸ hcount
    exact fails (fetchInstr_of_counted hop hend) (if_pos (memBytes_eq_nil.mpr hargs))
  case argsRange => exact fun hop hcount _ hend => unread (fetchInstr_args_outside hop hcount hend)
  case cmdaOutside =>
    intro hop hn hend hclosed
    have hargs : (byte 2).toNat ≠ 0 := fun h => hn (BitVec.eq_of_toNat_eq h)
    exact fails (fetchInstr_of_counted hop hend)
      ((if_neg (mt memBytes_eq_nil.mp hargs)).trans (insideCheck_of_closed hclosed))
  case outside =>
    rintro (hop | hop) hend hclosed
    · exact fails (i := .cmd (byte 1)) (fetchInstr_of_opcode_operand hend hop rfl rfl rfl)
        (insideCheck_of_closed hclosed)
    · exact fails (i := .dly (byte 1)) (fetchInstr_of_opcode_operand hend hop rfl rfl rfl)
        (insideCheck_of_closed hclosed)
  case nestedStart =>
    exact fun hpc hop hopen =>
      fails (i := .start) (fetchInstr_of_opcode hpc hop rfl rfl rfl) (startCheck_of_open hopen)
  case secondTransfer =>
    exact fun hpc hop hclosed hseen =>
      fails (i := .start) (fetchInstr_of_opcode hpc hop rfl rfl rfl) (startCheck_of_seen hclosed hseen)
  case unbalancedEndx =>
    exact fun hpc hop hclosed =>
      fails (i := .endx) (fetchInstr_of_opcode hpc hop rfl rfl rfl) (endxCheck_of_closed hclosed)
  case unbalancedEnd =>
    exact fun hpc hop hbracket =>
      fails (i := .endSeq) (fetchInstr_of_opcode hpc hop rfl rfl rfl) (endCheck_of_unbalanced hbracket)

/-! ### FAULTED -/

theorem step_faulted {s : State} (hr : s.rst = none) (hp : s.phase = .faulted) : step s = .fault .noStepInFaulted := by
  simp only [step, hr, hp]

/-- Settles O29: the phase alone stops the step, and a reset leads to the reset values whatever the phase. -/
theorem faultedHasNoStepButReset : Obligations.FaultedHasNoStepButReset :=
  fun _ hp => ⟨fun hr => step_faulted hr hp, fun _ hr => ⟨_, step_rst hr, rfl, rfl⟩⟩

end Sys2Proof.Machine
end

section
/-!
PROOF. Reset (70_reset_and_hazards.md): what RST writes and what it leaves (R280, R282, R283), and the wait for the first
message after it (R281).
-/
namespace Sys2Proof.Machine

/-- A step in IDLE with no message on the port changes nothing (R281). -/
theorem step_idle_of_no_message {s : State} (hr : s.rst = none) (hp : s.phase = .idle) (hm : s.msgs = []) :
    step s = .next s := by
  simp only [step, stepIdle, hr, hp, hm]

/-- Settles O1: `applyRst` starts from the reset state and overwrites none of the registers of R38. -/
theorem resetPutsEveryRegisterToItsResetValue : Obligations.ResetPutsEveryRegisterToItsResetValue :=
  fun s c hr => ⟨s.applyRst c, step_rst hr,
    rfl, rfl, rfl, rfl, rfl, rfl, rfl, rfl, rfl, rfl, rfl, rfl, rfl, rfl, rfl⟩

/-- Settles O2: `applyRst` field by field; it leaves RST released and the phase IDLE, where a step without a message
changes nothing. -/
theorem resetAbandonsTheMessageAndWaits : Obligations.ResetAbandonsTheMessageAndWaits := by
  intro s c hr
  refine ⟨s.applyRst c, step_rst hr, rfl, rfl, rfl, rfl, rfl, rfl, rfl, rfl, rfl, rfl, rfl, fun hm => ?_⟩
  exact step_idle_of_no_message rfl rfl hm

end Sys2Proof.Machine
end
